-- ==== Sys2Proof/Word.lean ====
section
/-! DEFINITION. The word types of the block: bytes, 32-bit register words (10_state.md R25), which also
hold a frame's flash address, and the 24-bit identification words (10_state.md R37). -/

namespace Sys2Proof

/-- A byte of DBUF, of the flash array or of an SPI frame. -/
abbrev Byte := BitVec 8

/-- A register of the block: 32 bits, unsigned (10_state.md R25, 00_scope.md R17). -/
abbrev Word := BitVec 32

/-- The three identification bytes (10_state.md R37). -/
abbrev Word24 := BitVec 24

end Sys2Proof
end

