-- ==== Sys2Proof/Config.lean ====
section
/-! DEFINITION. The fixed parameters of the block (00_scope.md R8), the configuration: the overridable
parameters (R9) with the draws' switches (70_reset_and_hazards.md R160), and the draws (00_scope.md R21). -/

namespace Sys2Proof

/-- The configuration of a launch state: the two switches of the draws (70_reset_and_hazards.md R160) and
every parameter 00_scope.md R9 calls overridable. No step changes it. A statement that takes `spiFaultDraw`
or `timeoutDraw` to be false assumes a reliable bus or a device that always meets its budget, and says so
(R160). The defaults are the values R9 states; DESIGN CHOICE (log 28): an OPEN parameter has the default 0,
and what a size or a width other than the stated one means is the model's reading. -/
structure Config where
  /-- SPI_FAULT_DRAW: a transaction may fail (40_flash_controller.md R102). -/
  spiFaultDraw : Bool := true
  /-- TIMEOUT_DRAW: a poll that has seen BUSY = 1 may time out (R103). -/
  timeoutDraw : Bool := true
  /-- EXPECTED_JEDEC_ID (00_scope.md R9). -/
  expectedJedecId : Word24 := 0xEF4015#24
  /-- BLOCK_SIZE (00_scope.md R9). -/
  blockSize : Word := 0x00010000#32
  /-- DBUF_SIZE in bytes (R9, D12). -/
  dbufSize : Nat := 4096
  /-- TMO_BE in milliseconds, OPEN (R9, D19): no rule depends on it. -/
  tmoBeMs : Nat := 0
  /-- FLC_BASE, OPEN (R9, D3): the block's base address on the host bus. -/
  flcBase : Nat := 0
  /-- SPI_CLK_HZ, OPEN, not modelled (R9, D37). -/
  spiClkHz : Nat := 0
  /-- HOST_CLK_HZ, OPEN, not modelled (R9, D37). -/
  hostClkHz : Nat := 0
  /-- Host bus data width in bits (R9, D2): no access is wider. -/
  hostBusBits : Nat := 32
  /-- Flash address width on SPI in bits (R9, D25). -/
  spiAddrBits : Nat := 24
  /-- Register width in bits (R9, D4): the one width the register region accepts. -/
  registerBits : Nat := 32
  deriving DecidableEq, Repr

/-- The per-operation timeout budgets, labels only: the model has no time (60_exceptions.md R149). -/
inductive Budget where
  /-- TMO_PP, about 5 ms. -/
  | pageProgram
  /-- TMO_SE, about 500 ms. -/
  | sectorErase
  /-- TMO_BE, OPEN. -/
  | blockErase
  /-- TMO_CE, about 100 s. -/
  | chipErase
  deriving DecidableEq, Repr

namespace Config

/-- FLASH_SIZE (00_scope.md R8). -/
abbrev flashSize : Nat := 2097152
/-- SECTOR_SIZE (R8). -/
abbrev sectorSize : Nat := 4096
/-- PAGE_SIZE (R8). -/
abbrev pageSize : Nat := 256
/-- RECORD_SIZE and RECORD_CRC_LEN (R8). -/
abbrev recordSize : Nat := 64
/-- RECORD_CRC_LEN (R8): the stored CRC stands at this offset of a record (R13). -/
abbrev recordCrcLen : Nat := 60
/-- HEADER_SIZE (R8). -/
abbrev headerSize : Nat := 44
/-- HEADER_CRC_LEN (R8): the stored CRC stands at this offset of a header (R14). -/
abbrev headerCrcLen : Nat := 40
/-- RECORD_MAGIC (R8). -/
abbrev recordMagic : Word := 0xFEEDDA7A#32
/-- HEADER_MAGIC (R8). -/
abbrev headerMagic : Word := 0xF1A5DEAD#32
/-- HEADER_VERSION (R8). -/
abbrev headerVersion : Word := 1#32
/-- HEADER_A_ADDR (R8, R12): the software's slot A, which the block does not enforce. -/
abbrev headerAAddr : Nat := 0x0000
/-- HEADER_B_ADDR (R8, R12). -/
abbrev headerBAddr : Nat := 0x0100
/-- CRC_POLY, reflected (R8). -/
abbrev crcPoly : Word := 0xEDB88320#32
/-- CRC_SEED (R8). -/
abbrev crcSeed : Word := 0xFFFFFFFF#32
/-- CRC_XOROUT (R8). -/
abbrev crcXorOut : Word := 0xFFFFFFFF#32
/-- The value of an erased flash byte (20_memory.md R67). -/
abbrev erasedByte : Byte := 0xFF#8

/-- The figures of 70_reset_and_hazards.md R170 in milliseconds; no rule depends on one. -/
def budgetMs (c : Config) : Budget → Nat
  | .pageProgram => 5
  | .sectorErase => 500
  | .blockErase => c.tmoBeMs
  | .chipErase => 100000

/-- The draws of 00_scope.md R21 of type Bool: draw number k. A free value: nothing constrains it. -/
opaque freeBool : Nat → Bool
/-- The draws of R21 of type byte. A free value. -/
opaque freeByte : Nat → Byte
/-- The draws of R21 of type word. A free value. -/
opaque freeWord : Nat → Word

end Config

end Sys2Proof
end

