-- ==== Sys2Proof/Syntax.lean ====
section
/-! DEFINITION. The syntax of the block's commands: one constructor per row of
spec/opcode_table.json (30_encoding.md R88). -/

namespace Sys2Proof

/-- The twelve commands of 30_encoding.md R88. A command word carries no operand: every operand is
latched from ADDR, LEN and BOFF at acceptance (R87, R90), so no constructor has an argument. -/
inductive Instr where
  /-- 0x00 NOP, 40_flash_controller.md R107. -/
  | nop
  /-- 0x01 READ, R108. -/
  | read
  /-- 0x02 PROG_PAGE, R109. -/
  | progPage
  /-- 0x03 WRITE, R111. -/
  | write
  /-- 0x04 ERASE_SECTOR, R112. -/
  | eraseSector
  /-- 0x05 ERASE_BLOCK, R113. -/
  | eraseBlock
  /-- 0x06 ERASE_CHIP, R114. -/
  | eraseChip
  /-- 0x07 READ_ID, R115. -/
  | readId
  /-- 0x10 CRC_INIT, 41_crc_validator.md R123. -/
  | crcInit
  /-- 0x11 CRC_BUF, R124. -/
  | crcBuf
  /-- 0x12 VALIDATE_RECORD, R127. -/
  | validateRecord
  /-- 0x13 VALIDATE_HEADER, R128. -/
  | validateHeader
  deriving DecidableEq, Repr

end Sys2Proof
end

