-- ==== Sys2Proof/Machine/State.lean ====
section
/-! DEFINITION. The state of the machine as plain data: the block's registers, DBUF, the sequencer, the
flash device, the configuration of the launch state, the agents' agenda, and the draw index
(10_state.md; 00_scope.md R15, R21; 70_reset_and_hazards.md R160). -/

namespace Sys2Proof.Machine

/-- A byte memory: (address, byte) pairs, addresses strictly rising (see `Memory.wf`). What an unlisted
address reads as is fixed by the operation that reads: undefined for DBUF, 0xFF for the flash array. -/
abbrev Memory := List Host.Cell

/-- Addresses strictly rise: the canonical form every memory of the model keeps. -/
abbrev Memory.wf (m : Memory) : Prop := m.Pairwise fun x y => x.1 < y.1

/-- The status codes of 60_exceptions.md R133. Values 0x7-0xF are reserved and never produced, so they
have no constructor. -/
inductive Code where
  | ok
  | errParam
  | errSpi
  | errTimeout
  | errNodev
  | errCrc
  | errOpcode
  deriving DecidableEq, Repr

/-- The fields of STATUS (10_state.md R27). The reserved bits hold nothing: they read 0 and ignore
writes (R46). The word software reads is `statusWord` of Machine/Flags.lean. -/
structure Status where
  /-- Bit 0, R28. -/
  busy : Bool
  /-- Bit 1, R29. -/
  done : Bool
  /-- Bit 2, R30. -/
  ovr : Bool
  /-- Bits 7:4, R31. -/
  err : Code
  /-- Bit 16, R32. -/
  magicOk : Bool
  /-- Bit 17, R32. -/
  versionOk : Bool
  /-- Bit 18, R32. -/
  crcOk : Bool
  /-- Bit 19, R32. -/
  idOk : Bool
  deriving DecidableEq, Repr

/-- The latch (10_state.md R43): the command word and its operands, copied at acceptance. -/
structure Latch where
  opw : Word
  a : Word
  n : Word
  b : Word
  deriving DecidableEq, Repr

/-- One page-program operation of PROG_PAGE or WRITE: flash address, DBUF offset, length
(40_flash_controller.md R110). -/
structure Chunk where
  addr : Nat
  boff : Nat
  len : Nat
  deriving DecidableEq, Repr

/-- The erase units of 20_memory.md R67. -/
inductive EraseUnit where
  | sector
  | block
  | chip
  deriving DecidableEq, Repr

/-- One `Mutate` of 40_flash_controller.md R105: a program chunk, or an erase of the unit at a base. -/
inductive MutOp where
  | program (c : Chunk)
  | erase (u : EraseUnit) (base : Nat)
  deriving DecidableEq, Repr

/-- What a flash command does once its pre-poll has seen the device ready (R104). -/
inductive Job where
  /-- READ's transaction: flash address, length, DBUF offset (R108). -/
  | receive (addr n boff : Nat)
  /-- READ_ID's transaction (R115). -/
  | identify
  /-- The `Mutate`s of a program or an erase, in order (R105, R111). -/
  | mutate (ops : List MutOp)
  deriving DecidableEq, Repr

/-- The two images the validator checks (41_crc_validator.md R126). -/
inductive Image where
  | record
  | header
  deriving DecidableEq, Repr

/-- The sequencer's phase: the position in the running command's micro-program, that is, the micro-step
that comes next (10_state.md R42, 40_flash_controller.md R99). -/
inductive Phase where
  /-- The decode step (R98). -/
  | decode
  /-- The parameter check (R101, checks 2 to 5). -/
  | check
  /-- One poll of the pre-poll `DevReady(tmo)` (R103, R104), then the job. -/
  | prePoll (tmo : Budget) (job : Job)
  /-- READ's data transaction (R108). -/
  | receive (addr n boff : Nat)
  /-- READ's write of DBUF, with the code its `finish` will have (R99, R108). -/
  | deposit (boff : Nat) (bytes : List Byte) (code : Code)
  /-- READ_ID's transaction (R115). -/
  | identify
  /-- The write-enable transaction of `Mutate` for `op`; `rest` follows (R105). -/
  | writeEnable (tmo : Budget) (op : MutOp) (rest : List MutOp)
  /-- The program or erase frame of `Mutate` (R105). -/
  | frame (tmo : Budget) (op : MutOp) (rest : List MutOp)
  /-- One poll of `Mutate`'s own `DevReady(tmo)` (R105), then `rest`. -/
  | postPoll (tmo : Budget) (rest : List MutOp)
  /-- CRC_INIT's update of CRC_STATE (41_crc_validator.md R123). -/
  | seed
  /-- CRC_BUF's update of CRC_STATE by byte i of its range (R124). -/
  | feed (i : Nat)
  /-- A validation's computation and its result registers (R127, R128). -/
  | judge (img : Image)
  /-- `finish(code)` (40_flash_controller.md R100). -/
  | finish (code : Code)
  deriving DecidableEq, Repr

/-- The sequencer (10_state.md R42). -/
inductive Seq where
  | idle
  | run (l : Latch) (p : Phase)
  deriving DecidableEq, Repr

/-- The device's operation in progress (10_state.md R40). -/
inductive DevOp where
  | program (addr : Nat) (data : List Byte)
  | erase (lo hi : Nat)
  | draws (lo hi : Nat)
  deriving DecidableEq, Repr

/-- The external flash device (10_state.md R38, R40, R41). -/
structure Device where
  /-- The flash array (R38); an unlisted byte reads 0xFF. -/
  flash : Memory
  /-- `dev_pending`; `dev_busy` holds when it is not `none` (R40). -/
  pending : Option DevOp
  /-- `dev_wel`, the write-enable latch (R40). -/
  wel : Bool
  /-- SR1 bits 7:2, block-protect and other bits (R41); 0 is the premise `dev_unprotected`
  (20_memory.md R74). The block never writes them. -/
  srHigh : BitVec 6
  /-- The identification bytes of the fitted device, `none` with no device present
  (40_flash_controller.md R115). -/
  fitted : Option Word24
  deriving DecidableEq, Repr

/-- The SPI frames the sequencer sends, and no others (20_memory.md R75). `Frame.bytes` of
Machine/Device.lean gives the bytes on the wire. -/
inductive Frame where
  | readStatus
  | writeEnable
  | read (addr : Word) (n : Nat)
  | pageProgram (addr : Word) (data : List Byte)
  | sectorErase (addr : Word)
  | blockErase (addr : Word)
  | chipErase
  | jedecId
  deriving DecidableEq, Repr

/-- The widths of a host access (20_memory.md R54). -/
inductive Width where
  | byte
  | half
  | word
  deriving DecidableEq, Repr

/-- A host bus access at a block offset (R54). -/
inductive Access where
  | read (off : Nat) (w : Width)
  | write (off : Nat) (w : Width) (v : Word)
  deriving DecidableEq, Repr

/-- One atomic step of one of the four agents (00_scope.md R15). -/
inductive Move where
  /-- The host performs an access. -/
  | host (acc : Access)
  /-- The sequencer takes a micro-step. -/
  | sequencer
  /-- The flash device completes its pending operation. -/
  | device
  /-- The environment resets the block or cuts its power (70_reset_and_hazards.md R154). -/
  | reset
  deriving DecidableEq, Repr

/-- The machine. -/
structure State where
  /-- CMD (10_state.md R26). -/
  cmd : Word
  /-- STATUS (R27). -/
  status : Status
  /-- ADDR (R33). -/
  addr : Word
  /-- LEN (R33). -/
  len : Word
  /-- BOFF (R33). -/
  boff : Word
  /-- CRC_STATE (R35). -/
  crcState : Word
  /-- VAL_CALC (R37). -/
  valCalc : Word
  /-- VAL_STORED (R37). -/
  valStored : Word
  /-- JEDEC_ID (R37). -/
  jedecId : Word
  /-- DBUF (R34); an unlisted byte is undefined. -/
  dbuf : Memory
  /-- The sequencer with its latch and phase (R42, R43). -/
  seq : Seq
  /-- The flash device (R38, R40). -/
  dev : Device
  /-- The configuration of the launch state (00_scope.md R9, 70_reset_and_hazards.md R160). -/
  cfg : Config
  /-- The model's own: DBUF indices of the running command's range that the host has written while it
  runs (70_reset_and_hazards.md R163). -/
  raced : List Nat
  /-- The model's own: the chunk of the running command's last program frame whose transaction succeeded (R163, log 30). -/
  issued : Option Chunk
  /-- The model's own: the index of the next draw (00_scope.md R21). -/
  draws : Nat
  /-- The model's own: the moves still to be made by the agents, the next one first (R15). -/
  agenda : List Move
  /-- The model's own: the values the block returned to host reads, newest first. -/
  readLog : List Word
  /-- The model's own: the SPI frames sent, newest first. -/
  spiLog : List Frame
  deriving DecidableEq, Repr

/-- Why the machine stops. -/
inductive Fault where
  /-- `ModelFault(UninitDbufRead)` (60_exceptions.md R140), the only model fault: a host read, or a
  command, consumed an undefined DBUF byte. Raised by `hostRead`, `chunkFrame`, `feedStep` and
  `judgeStep`. Safe: the chip goes on with some value, the model stops. -/
  | uninitDbufRead
  /-- `BusError(off)` (R141): a host access at an unmapped offset, or with a width or an alignment the
  region does not accept. Raised by `hostRead` and `hostWrite`; no block state changes. Safe: it is
  recorded as a fault of the host agent. -/
  | busError (off : Nat)
  deriving DecidableEq, Repr

/-- Why an instruction has no meaning. -/
inductive Refusal where
  /-- An arm of `exec` that is not modelled. No arm is: every command has its meaning. Safe. -/
  | notModelled (mnemonic : String)
  deriving DecidableEq, Repr

/-- The outcome of a step. -/
abbrev Result := Host.Outcome State Fault Refusal

/-- STATUS right after reset: every field 0 (10_state.md R27). -/
abbrev Status.reset : Status :=
  { busy := false, done := false, ovr := false, err := .ok,
    magicOk := false, versionOk := false, crcOk := false, idOk := false }

/-- The machine right after reset (10_state.md R25, R53; 70_reset_and_hazards.md R154, R155). The flash
content, the configuration, the fitted device and the model's own fields are launch values that the log
names. -/
def State.reset : State :=
  { cmd := 0, status := Status.reset, addr := 0, len := 0, boff := 0,
    crcState := Config.crcSeed, valCalc := 0, valStored := 0, jedecId := 0,
    dbuf := [], seq := .idle,
    dev := { flash := [], pending := none, wel := false, srHigh := 0, fitted := some 0xEF4015#24 },
    cfg := {}, raced := [], issued := none, draws := 0, agenda := [], readLog := [], spiLog := [] }

end Sys2Proof.Machine
end

