-- ==== Sys2Proof/Machine/Flags.lean ====
section
/-! DEFINITION. The STATUS register: its word, and every computation of its fields (10_state.md R27-R32,
60_exceptions.md R133). The block has no other flag (R48). -/

namespace Sys2Proof.Machine

/-- The value of a status code in STATUS.ERR (60_exceptions.md R133). -/
def codeValue : Code → BitVec 4
  | .ok => 0x0#4
  | .errParam => 0x1#4
  | .errSpi => 0x2#4
  | .errTimeout => 0x3#4
  | .errNodev => 0x4#4
  | .errCrc => 0x5#4
  | .errOpcode => 0x6#4

/-- The word a read of STATUS returns (10_state.md R27): bits 31:20, 15:8 and 3 are reserved and read 0
(R46). -/
def statusWord (st : Status) : Word :=
  0#12 ++ BitVec.ofBool st.idOk ++ BitVec.ofBool st.crcOk ++ BitVec.ofBool st.versionOk
    ++ BitVec.ofBool st.magicOk ++ 0#8 ++ codeValue st.err ++ 0#1 ++ BitVec.ofBool st.ovr
    ++ BitVec.ofBool st.done ++ BitVec.ofBool st.busy

/-- A host write of `v` to STATUS: writing 1 to DONE or OVR clears it, and nothing else happens
(R27). -/
def statusWrite (v : Word) (st : Status) : Status :=
  { st with
    done := if v.getLsbD 1 then false else st.done
    ovr := if v.getLsbD 2 then false else st.ovr }

/-- A write ignored because BUSY = 1 sets OVR (R30, R45). -/
def statusOverrun (st : Status) : Status := { st with ovr := true }

/-- Command acceptance (40_flash_controller.md R97): BUSY is set; DONE, ERR and the four result bits are
cleared; OVR is kept (R30). -/
def statusAccept (st : Status) : Status :=
  { st with
    busy := true, done := false, err := .ok
    magicOk := false, versionOk := false, crcOk := false, idOk := false }

/-- `finish(code)` (R100). -/
def statusFinish (code : Code) (st : Status) : Status :=
  { st with err := code, busy := false, done := true }

/-- The result bits of a validation (41_crc_validator.md R127, R128). -/
def statusValidated (magic version crc : Bool) (st : Status) : Status :=
  { st with magicOk := magic, versionOk := version, crcOk := crc }

/-- READ_ID's result bit (40_flash_controller.md R115). -/
def statusIdentified (st : Status) : Status := { st with idOk := true }

end Sys2Proof.Machine
end

