-- ==== Sys2Proof/Machine/Ops.lean ====
section
/-! DEFINITION. The named operations over memories, draws and registers, and the command lifecycle:
acceptance (40_flash_controller.md R97) and `finish` (R100). The block takes no trap (60_exceptions.md
R145): `finish` is the one operation by which every command, failing or not, records its outcome, and the
next acceptance, or a write of STATUS, is the only acknowledgement (R146). -/

namespace Sys2Proof.Machine

/-! ### Memories -/

/-- The byte listed at an address. -/
def memGet : Memory → Nat → Option Byte
  | [], _ => none
  | (k, v) :: m, a => if k = a then some v else memGet m a

/-- Lists byte `v` at address `a`, keeping addresses rising. -/
def memSet : Memory → Nat → Byte → Memory
  | [], a, v => [(a, v)]
  | (k, w) :: m, a, v =>
    if a < k then (a, v) :: (k, w) :: m
    else if a = k then (a, v) :: m
    else (k, w) :: memSet m a v

/-- Unlists the addresses of `[lo, hi)`. -/
def memClear (m : Memory) (lo hi : Nat) : Memory :=
  m.filter fun c => !(decide (lo ≤ c.1) && decide (c.1 < hi))

/-- A byte of the flash array: an unlisted byte reads 0xFF, erased (10_state.md R38, 20_memory.md
R67). -/
def flashRead (m : Memory) (a : Nat) : Byte := (memGet m a).getD Config.erasedByte

/-- Stores one byte of the flash array. Storing the value an unlisted byte reads as unlists it. -/
def flashWrite (m : Memory) (a : Nat) (v : Byte) : Memory :=
  if v = Config.erasedByte then memClear m a (a + 1) else memSet m a v

/-- Stores bytes at the listed flash addresses, in order. -/
def flashWriteAt : Memory → List Nat → List Byte → Memory
  | m, a :: as, v :: vs => flashWriteAt (flashWrite m a v) as vs
  | m, _, _ => m

/-- Stores bytes of DBUF from index `i` up; each becomes defined (10_state.md R34). -/
def dbufStore : Memory → Nat → List Byte → Memory
  | m, _, [] => m
  | m, i, v :: vs => dbufStore (memSet m i v) (i + 1) vs

/-- Every byte of DBUF[b..b+n) is defined (10_state.md R34). -/
def dbufDefined (m : Memory) (b n : Nat) : Bool := (List.range n).all fun i => (memGet m (b + i)).isSome

/-- The value of a defined byte of DBUF; every reader checks that the byte is defined first
(60_exceptions.md R140). -/
def dbufByte (m : Memory) (i : Nat) : Byte := (memGet m i).getD 0

/-- The bytes DBUF[b..b+n), in ascending order. -/
def dbufBytes (m : Memory) (b n : Nat) : List Byte := (List.range n).map fun i => dbufByte m (b + i)

/-- The canonical form of the flash array: rising addresses inside the array, no entry equal to what an
unlisted address reads as. -/
abbrev flashWf (m : Memory) : Prop :=
  m.wf ∧ ∀ c ∈ m, c.1 < Config.flashSize ∧ c.2 ≠ Config.erasedByte

/-- The canonical form of a DBUF of `size` bytes: rising indices inside the buffer. -/
abbrev dbufWf (size : Nat) (m : Memory) : Prop := m.wf ∧ ∀ c ∈ m, c.1 < size

/-! ### Byte order -/

/-- The little-endian assembly of bytes, zero-extended to a word: byte 0 in bits 7:0 (00_scope.md R18,
20_memory.md R55, R59). -/
def leWord : List Byte → Word
  | [] => 0
  | v :: vs => (leWord vs <<< 8) ||| v.setWidth 32

/-- Byte k of a word, bits 8k+7 : 8k (20_memory.md R56). -/
def byteOf (v : Word) (k : Nat) : Byte := v.extractLsb' (8 * k) 8

/-- `LE32at(DBUF, i)` (00_scope.md R18, 20_memory.md R61). -/
def le32At (m : Memory) (i : Nat) : Word := leWord (dbufBytes m i 4)

/-! ### Draws -/

/-- `n` independent draws of a byte, from draw number `k` (00_scope.md R21). -/
def freeBytes (k n : Nat) : List Byte := (List.range n).map fun i => Config.freeByte (k + i)

/-- `n` draws have been made. -/
def bump (n : Nat) (s : State) : State := { s with draws := s.draws + n }

/-! ### The command lifecycle -/

/-- The running command goes to phase `p`. -/
def enter (l : Latch) (p : Phase) (s : State) : State := { s with seq := .run l p }

/-- Command acceptance (40_flash_controller.md R97): the word is stored in CMD (10_state.md R26), the
latch copies it and the operands (R43), STATUS changes as `statusAccept` says, and the sequencer starts at
the decode step. No DBUF byte has raced with the new command yet. -/
def accept (w : Word) (s : State) : State :=
  { s with
    cmd := w
    status := statusAccept s.status
    seq := .run { opw := w, a := s.addr, n := s.len, b := s.boff } .decode
    raced := [], issued := none }

/-- `finish(code)` (R100): ERR takes the code, BUSY is cleared, DONE is set, and the sequencer is Idle; the
latch and the phase are discarded (10_state.md R51). -/
def finish (code : Code) (s : State) : State :=
  { s with status := statusFinish code s.status, seq := .idle, raced := [], issued := none }

end Sys2Proof.Machine
end

