-- ==== Sys2Proof/Machine/Crc.lean ====
section
/-! DEFINITION. The CRC function (41_crc_validator.md R119-R121). -/

namespace Sys2Proof.Machine

/-- One iteration of the loop of R119, least significant bit first. -/
def crcBit (c : Word) : Word :=
  if c.getLsbD 0 then (c >>> 1) ^^^ Config.crcPoly else c >>> 1

/-- `k` iterations of `crcBit`. -/
def crcBits : Nat → Word → Word
  | 0, c => c
  | k + 1, c => crcBits k (crcBit c)

/-- `crc_update` of R119: one byte. -/
def crcUpdate (c : Word) (d : Byte) : Word := crcBits 8 (c ^^^ d.setWidth 32)

/-- The running CRC after a sequence of bytes (R122). -/
def crcFeed (c : Word) (ds : List Byte) : Word := ds.foldl crcUpdate c

/-- `CRC32` of R121: seed, bytes, final complement. -/
def crc32 (ds : List Byte) : Word := crcFeed Config.crcSeed ds ^^^ Config.crcXorOut

/-- An entry of the table of R120: the loop of R119 started from the index. -/
def crcTable (i : Byte) : Word := crcBits 8 (i.setWidth 32)

end Sys2Proof.Machine
end

