-- ==== Sys2Proof/Decode.lean ====
section
/-! DEFINITION. The decoder of CMD words, total on all 2^32 words (30_encoding.md R87-R89, R92), and
after it the encoder, written from the same opcode map. -/

namespace Sys2Proof

/-- Why a CMD word is illegal (30_encoding.md R92). -/
inductive Illegal where
  /-- A bit of RSVD, bits 31:8, is 1, whatever the OPCODE. -/
  | reservedBits
  /-- RSVD is 0 and the OPCODE is 0x08-0x0F or 0x14-0xFF. -/
  | reservedOpcode
  deriving DecidableEq, Repr

/-- The RSVD field, bits 31:8 of a CMD word (R87). -/
def rsvdField (w : Word) : BitVec 24 := w.extractLsb' 8 24

/-- The OPCODE field, bits 7:0 of a CMD word (R87). -/
def opcodeField (w : Word) : Byte := w.extractLsb' 0 8

/-- The opcode map of R88. -/
def decodeOpcode (op : Byte) : Option Instr :=
  if op = 0x00#8 then some .nop
  else if op = 0x01#8 then some .read
  else if op = 0x02#8 then some .progPage
  else if op = 0x03#8 then some .write
  else if op = 0x04#8 then some .eraseSector
  else if op = 0x05#8 then some .eraseBlock
  else if op = 0x06#8 then some .eraseChip
  else if op = 0x07#8 then some .readId
  else if op = 0x10#8 then some .crcInit
  else if op = 0x11#8 then some .crcBuf
  else if op = 0x12#8 then some .validateRecord
  else if op = 0x13#8 then some .validateHeader
  else none

/-- `decode` of R89: a command, or Illegal with the reason's name. -/
def decode (w : Word) : Except Illegal Instr :=
  if rsvdField w = 0#24 then
    match decodeOpcode (opcodeField w) with
    | some i => .ok i
    | none => .error .reservedOpcode
  else .error .reservedBits

/-- The opcode of a command, from the map of R88. -/
def opcode : Instr → Byte
  | .nop => 0x00#8
  | .read => 0x01#8
  | .progPage => 0x02#8
  | .write => 0x03#8
  | .eraseSector => 0x04#8
  | .eraseBlock => 0x05#8
  | .eraseChip => 0x06#8
  | .readId => 0x07#8
  | .crcInit => 0x10#8
  | .crcBuf => 0x11#8
  | .validateRecord => 0x12#8
  | .validateHeader => 0x13#8

/-- The CMD word of a command: RSVD = 0 above the opcode (R87). -/
def encode (i : Instr) : Word := 0#24 ++ opcode i

/-- What the decoder reads from a word of the opcode table: a CMD word is one 32-bit register write
(R93), so the word's bits are the CMD bits, and every bit from `nbits` up is 0. A value that does not
fit 32 bits is no CMD word. -/
def decodeTableWord (nbits w : Nat) : Option Instr :=
  if w % 2 ^ nbits < 2 ^ 32 then
    match decode (BitVec.ofNat 32 (w % 2 ^ nbits)) with
    | .ok i => some i
    | .error _ => none
  else none

end Sys2Proof
end

