-- ==== Sys2Proof/Machine/Operands.lean ====
section
/-! DEFINITION. The operands of the commands (30_encoding.md R90): the latch read as natural numbers
(00_scope.md R24), the parameter checks in their order (40_flash_controller.md R101), the erase bases
(30_encoding.md R91), the chunk split (R110), and the DBUF range of each command (70_reset_and_hazards.md
R163). -/

namespace Sys2Proof.Machine

/-- `a`, the latched ADDR, as a natural number (00_scope.md R24). -/
def flashAddr (l : Latch) : Nat := l.a.toNat

/-- `n`, the latched LEN. -/
def byteCount (l : Latch) : Nat := l.n.toNat

/-- `b`, the latched BOFF. -/
def dbufOffset (l : Latch) : Nat := l.b.toNat

/-- The DBUF bound fails: `b + n > DBUF_SIZE` (R101 check 2). -/
def pastDbuf (cfg : Config) (b n : Nat) : Bool := decide (cfg.dbufSize < b + n)

/-- The flash bound of a transfer fails: `a + n > FLASH_SIZE` (R101 check 3). -/
def pastFlash (a n : Nat) : Bool := decide (Config.flashSize < a + n)

/-- The flash bound of an erase fails: `a >= FLASH_SIZE` (R101 check 3). -/
def outsideFlash (a : Nat) : Bool := decide (Config.flashSize ≤ a)

/-- The page bound fails: `(a mod PAGE_SIZE) + n > PAGE_SIZE` (R101 check 4). -/
def crossesPage (a n : Nat) : Bool := decide (Config.pageSize < a % Config.pageSize + n)

/-- The base of the sector that holds `a` (30_encoding.md R91). -/
def sectorBase (a : Word) : Nat := (a &&& 0xFFFFF000#32).toNat

/-- The base of the block that holds `a` (30_encoding.md R91). -/
def blockBase (blockSize a : Word) : Nat := (a &&& ~~~(blockSize - 1#32)).toNat

/-- `chunks` of R110, with a bound on the number of chunks: each takes at least one byte. -/
def chunksUpTo : Nat → Nat → Nat → Nat → List Chunk
  | 0, _, _, _ => []
  | fuel + 1, a, b, n =>
    if n = 0 then []
    else
      let m := min n (Config.pageSize - a % Config.pageSize)
      { addr := a, boff := b, len := m } :: chunksUpTo fuel (a + m) (b + m) (n - m)

/-- `chunks(a, b, n)` of R110: the split of `[a, a+n)` at page ends. -/
def chunks (a b n : Nat) : List Chunk := chunksUpTo n a b n

/-- The DBUF range of a command as start and length: W for READ, Rr for the commands that read DBUF,
empty for the others (70_reset_and_hazards.md R163). -/
def dbufRange (i : Instr) (l : Latch) : Nat × Nat :=
  match i with
  | .read => (dbufOffset l, byteCount l)
  | .progPage => (dbufOffset l, byteCount l)
  | .write => (dbufOffset l, byteCount l)
  | .crcBuf => (dbufOffset l, byteCount l)
  | .validateRecord => (dbufOffset l, Config.recordSize)
  | .validateHeader => (dbufOffset l, Config.headerSize)
  | .nop => (0, 0)
  | .eraseSector => (0, 0)
  | .eraseBlock => (0, 0)
  | .eraseChip => (0, 0)
  | .readId => (0, 0)
  | .crcInit => (0, 0)

/-- Index `x` is in a range given as start and length. -/
def inRange (r : Nat × Nat) (x : Nat) : Bool := decide (r.1 ≤ x) && decide (x < r.1 + r.2)

/-- The command running and its latch, if the sequencer runs a legal word. -/
def running (s : State) : Option (Instr × Latch) :=
  match s.seq with
  | .idle => none
  | .run l _ =>
    match decode l.opw with
    | .ok i => some (i, l)
    | .error _ => none

/-- Index `x` is in the DBUF range, W or Rr, of the running command (R163). -/
def inBusyRange (s : State) (x : Nat) : Bool :=
  match running s with
  | some (i, l) => inRange (dbufRange i l) x
  | none => false

/-- The latch of the running command, if it is one that programs the flash: PROG_PAGE or WRITE. -/
def programLatch (s : State) : Option Latch :=
  match running s with
  | some (.progPage, l) => some l
  | some (.write, l) => some l
  | _ => none

/-- Index `x` is in W, the range a running READ writes (R163). -/
def inReadDestination (s : State) (x : Nat) : Bool :=
  match running s with
  | some (.read, l) => inRange (dbufRange .read l) x
  | _ => false

end Sys2Proof.Machine
end

