-- ==== Sys2Proof/Machine/Device.lean ====
section
/-! DEFINITION. The external flash device and the SPI transaction: the frames' bytes (20_memory.md R62,
R75), what the device does with a frame (R66, R71-R73), its completion step (R67-R69, R71, R74), an
interrupted operation (70_reset_and_hazards.md R156) and `Xfer` (40_flash_controller.md R102). -/

namespace Sys2Proof.Machine

/-! ### Frames on the wire -/

/-- The number of address bytes in a frame: three at the stated width (20_memory.md R62, 00_scope.md R9). -/
def addrByteCount (cfg : Config) : Nat := cfg.spiAddrBits / 8

/-- A flash address in a frame, most significant byte first (20_memory.md R62). -/
def addrBytes (cfg : Config) (a : Word) : List Byte := (List.range (addrByteCount cfg)).reverse.map (byteOf a)

/-- The bytes of a frame, first byte sent first (R75). PRESUMED: the frame opcodes are general knowledge
of the part (92_eei_decisions.md D25). -/
def frameBytes (cfg : Config) : Frame → List Byte
  | .readStatus => [0x05#8]
  | .writeEnable => [0x06#8]
  | .read a _ => 0x03#8 :: addrBytes cfg a
  | .pageProgram a data => 0x02#8 :: (addrBytes cfg a ++ data)
  | .sectorErase a => 0x20#8 :: addrBytes cfg a
  | .blockErase a => 0xD8#8 :: addrBytes cfg a
  | .chipErase => [0xC7#8]
  | .jedecId => [0x9F#8]

/-- The number of bytes received in a frame (R75). -/
def frameIn : Frame → Nat
  | .readStatus => 1
  | .writeEnable => 0
  | .read _ n => n
  | .pageProgram _ _ => 0
  | .sectorErase _ => 0
  | .blockErase _ => 0
  | .chipErase => 0
  | .jedecId => 3

/-- The flash address a frame carries, 0 where it carries none. -/
def frameAddr : Frame → Word
  | .readStatus => 0
  | .writeEnable => 0
  | .read a _ => a
  | .pageProgram a _ => a
  | .sectorErase a => a
  | .blockErase a => a
  | .chipErase => 0
  | .jedecId => 0

/-- The frame with these bytes out and this many bytes in, as a reader of the wire takes it. -/
def parseFrame (cfg : Config) (out : List Byte) (nin : Nat) : Option Frame :=
  match out with
  | [] => none
  | op :: rest =>
    if rest = [] then
      if op = 0x05#8 then some .readStatus
      else if op = 0x06#8 then some .writeEnable
      else if op = 0xC7#8 then some .chipErase
      else if op = 0x9F#8 then some .jedecId
      else none
    else if rest.length < addrByteCount cfg then none
    else
      let a := leWord (rest.take (addrByteCount cfg)).reverse
      let data := rest.drop (addrByteCount cfg)
      if op = 0x02#8 then some (.pageProgram a data)
      else if data ≠ [] then none
      else if op = 0x03#8 then some (.read a nin)
      else if op = 0x20#8 then some (.sectorErase a)
      else if op = 0xD8#8 then some (.blockErase a)
      else none

/-! ### The device -/

/-- `dev_busy` (10_state.md R40). -/
def devBusy (d : Device) : Bool := d.pending.isSome

/-- Status register 1 (R41): bit 0 BUSY, bit 1 WEL, bits 7:2 as the device holds them. -/
def sr1 (d : Device) : Byte := d.srHigh ++ BitVec.ofBool d.wel ++ BitVec.ofBool (devBusy d)

/-- The premise `dev_unprotected` (20_memory.md R74): no block-protect bit is set. The spec does not say
which of SR1 bits 7:2 are block-protect bits, so all are clear. -/
def devUnprotected (d : Device) : Bool := d.srHigh == 0#6

/-- The address the device receives: the bits that are on the wire (20_memory.md R62, 00_scope.md R9). -/
def sentAddr (cfg : Config) (a : Word) : Nat := a.toNat % 2 ^ cfg.spiAddrBits

/-- The array address a frame address reaches: the array has FLASH_SIZE bytes and the device wraps at its
end (20_memory.md R73). -/
def arrayAddr (a : Nat) : Nat := a % Config.flashSize

/-- The address of byte `i` of a program at `a`: the device wraps at the end of the page (R73). -/
def progAddr (a i : Nat) : Nat := a - a % Config.pageSize + (a % Config.pageSize + i) % Config.pageSize

/-- The unit of an erase that holds array address `a`, as `[lo, hi)` (20_memory.md R67). -/
def eraseRange (cfg : Config) (u : EraseUnit) (a : Nat) : Nat × Nat :=
  match u with
  | .sector => (a - a % Config.sectorSize, a - a % Config.sectorSize + Config.sectorSize)
  | .block => (a - a % cfg.blockSize.toNat, a - a % cfg.blockSize.toNat + cfg.blockSize.toNat)
  | .chip => (0, Config.flashSize)

/-- The flash bytes of an operation, ascending but for a wrap (70_reset_and_hazards.md R156). -/
def opAddrs : DevOp → List Nat
  | .program a d => (List.range d.length).map (progAddr a)
  | .erase lo hi => List.range' lo (hi - lo)
  | .draws lo hi => List.range' lo (hi - lo)

/-- Every byte of an operation's range becomes an independent draw. -/
def drawRange (op : DevOp) (s : State) : State :=
  bump (opAddrs op).length
    { s with dev := { s.dev with
        flash := flashWriteAt s.dev.flash (opAddrs op) (freeBytes s.draws (opAddrs op).length) } }

/-- Every destination byte of a program is erased. The array does not change while the operation is
pending, so the completion step sees what acceptance saw (20_memory.md R68, R69). -/
def programErased (m : Memory) (a : Nat) (d : List Byte) : Bool :=
  (opAddrs (.program a d)).all fun x => flashRead m x == Config.erasedByte

/-- The effect of an operation on the array (20_memory.md R67-R69; 40_flash_controller.md R102). -/
def applyOp (op : DevOp) (s : State) : State :=
  match op with
  | .program a d =>
    if programErased s.dev.flash a d then
      { s with dev := { s.dev with flash := flashWriteAt s.dev.flash (opAddrs (.program a d)) d } }
    else drawRange op s
  | .erase lo hi => { s with dev := { s.dev with flash := memClear s.dev.flash lo hi } }
  | .draws _ _ => drawRange op s

/-- The operation ends: `dev_pending <- none` and `dev_wel <- 0` (R71). -/
def settleDevice (s : State) : State := { s with dev := { s.dev with pending := none, wel := false } }

/-- The completion step of the device agent (R71). With a protected device, a completion with no effect on
the array is admitted too: a draw (R74). With nothing pending the device has no step. -/
def deviceStep (s : State) : State :=
  match s.dev.pending with
  | none => s
  | some op =>
    if devUnprotected s.dev then settleDevice (applyOp op s)
    else if Config.freeBool s.draws then settleDevice (bump 1 s)
    else settleDevice (applyOp op (bump 1 s))

/-- The device accepts a program or an erase: only when it is not busy and WEL is set (R71, R72). -/
def acceptOp (op : DevOp) (s : State) : State :=
  if !devBusy s.dev && s.dev.wel then { s with dev := { s.dev with pending := some op } } else s

/-- The operation a frame asks for, if it is a program or an erase. -/
def frameOp (cfg : Config) : Frame → Option DevOp
  | .pageProgram a data => some (.program (arrayAddr (sentAddr cfg a)) data)
  | .sectorErase a =>
    let r := eraseRange cfg .sector (arrayAddr (sentAddr cfg a))
    some (.erase r.1 r.2)
  | .blockErase a =>
    let r := eraseRange cfg .block (arrayAddr (sentAddr cfg a))
    some (.erase r.1 r.2)
  | .chipErase =>
    let r := eraseRange cfg .chip 0
    some (.erase r.1 r.2)
  | .readStatus => none
  | .writeEnable => none
  | .read _ _ => none
  | .jedecId => none

/-- The bytes `Flash[a], Flash[a+1], ...` of a read transaction (R66); it wraps at the end of the array
(R73). -/
def flashBytes (m : Memory) (a n : Nat) : List Byte := (List.range n).map fun i => flashRead m (arrayAddr (a + i))

/-- The three identification bytes, first byte high (10_state.md R37). -/
def idBytes (id : Word24) : List Byte := [id.extractLsb' 16 8, id.extractLsb' 8 8, id.extractLsb' 0 8]

/-- A reply of draws, as many bytes as the frame receives. -/
def freeReply (f : Frame) (s : State) : List Byte × State :=
  (freeBytes s.draws (frameIn f), bump (frameIn f) s)

/-- The device takes a frame (R66, R71, R72, R75): the reply bytes and the state after. A busy device
ignores every frame but the status read, and a read sent to it returns draws (R72). DESIGN CHOICE (log 29): an
identification frame sent to a busy device is ignored too, and its three reply bytes are draws; R72 gives draws
for a read frame only and does not say what that frame receives. The sequencer sends neither to a busy device.
With no device present every reply byte is a draw and nothing else happens (40_flash_controller.md R115). -/
def deviceTakes (f : Frame) (s : State) : List Byte × State :=
  match s.dev.fitted with
  | none => freeReply f s
  | some id =>
    match f with
    | .readStatus => ([sr1 s.dev], s)
    | .writeEnable => if devBusy s.dev then ([], s) else ([], { s with dev := { s.dev with wel := true } })
    | .read a n => if devBusy s.dev then freeReply f s else (flashBytes s.dev.flash (sentAddr s.cfg a) n, s)
    | .jedecId => if devBusy s.dev then freeReply f s else (idBytes id, s)
    | .pageProgram _ _ => ([], ((frameOp s.cfg f).elim s fun op => acceptOp op s))
    | .sectorErase _ => ([], ((frameOp s.cfg f).elim s fun op => acceptOp op s))
    | .blockErase _ => ([], ((frameOp s.cfg f).elim s fun op => acceptOp op s))
    | .chipErase => ([], ((frameOp s.cfg f).elim s fun op => acceptOp op s))

/-- The range `[lo, hi)` a failed program or erase frame may turn into draws: the program chunk or the
erase unit (R102). -/
def opRange : DevOp → Nat × Nat
  | .program a d => (a, a + d.length)
  | .erase lo hi => (lo, hi)
  | .draws lo hi => (lo, hi)

/-- The device's side of a failed transaction, by the frame (R102). -/
def transportFailure (f : Frame) (s : State) : State :=
  match s.dev.fitted, f with
  | none, _ => s
  | some _, .writeEnable => bump 1 { s with dev := { s.dev with wel := Config.freeBool s.draws } }
  | some _, _ =>
    match frameOp s.cfg f with
    | none => s
    | some op =>
      if devBusy s.dev then s
      else
        bump 2 { s with dev := { s.dev with
          pending := if Config.freeBool s.draws then some (.draws (opRange op).1 (opRange op).2) else none
          wel := Config.freeBool (s.draws + 1) } }

/-- `Xfer(out, nin)` (R102): one SPI transaction, `none` when it fails. The outcome is draw number
`draws` when SPI_FAULT_DRAW is true, and `ok` otherwise. -/
def xfer (f : Frame) (s : State) : Option (List Byte) × State :=
  let s' := { s with spiLog := f :: s.spiLog, draws := s.draws + 1 }
  if s.cfg.spiFaultDraw && Config.freeBool s.draws then (none, transportFailure f s')
  else (some (deviceTakes f s').1, (deviceTakes f s').2)

end Sys2Proof.Machine
end

