-- ==== Sys2Proof/Machine/Bus.lean ====
section
/-! DEFINITION. The host bus: the register map (10_state.md R25), `MemRead` and `MemWrite` (20_memory.md
R54-R59), the register writes (10_state.md R26, R27, R33, R35, R45, R47; 41_crc_validator.md R125) and the
host's side of the DBUF race (70_reset_and_hazards.md R163). -/

namespace Sys2Proof.Machine

/-- The bus address of a block offset (20_memory.md R54). FLC_BASE is OPEN (92_eei_decisions.md D3). -/
def busAddress (cfg : Config) (off : Nat) : Nat := cfg.flcBase + off

/-- The registers of 10_state.md R25. -/
inductive Reg where
  | cmd | status | addr | len | boff | crcState | crcResult | crcData
  | valCalc | valStored | jedecId | flashSize | sectorSize | pageSize | blockSize | dbufSize
  deriving DecidableEq, Repr

/-- The register at an aligned offset below 0x040 (10_state.md R25). -/
def regAt (off : Nat) : Option Reg :=
  if off = 0x000 then some .cmd
  else if off = 0x004 then some .status
  else if off = 0x008 then some .addr
  else if off = 0x00C then some .len
  else if off = 0x010 then some .boff
  else if off = 0x014 then some .crcState
  else if off = 0x018 then some .crcResult
  else if off = 0x01C then some .crcData
  else if off = 0x020 then some .valCalc
  else if off = 0x024 then some .valStored
  else if off = 0x028 then some .jedecId
  else if off = 0x02C then some .flashSize
  else if off = 0x030 then some .sectorSize
  else if off = 0x034 then some .pageSize
  else if off = 0x038 then some .blockSize
  else if off = 0x03C then some .dbufSize
  else none

/-- The value a read of a register returns (10_state.md R25-R39, R47). Reads have no side effect
(20_memory.md R78). -/
def regRead (r : Reg) (s : State) : Word :=
  match r with
  | .cmd => s.cmd
  | .status => statusWord s.status
  | .addr => s.addr
  | .len => s.len
  | .boff => s.boff
  | .crcState => s.crcState
  | .crcResult => s.crcState ^^^ Config.crcXorOut
  | .crcData => 0
  | .valCalc => s.valCalc
  | .valStored => s.valStored
  | .jedecId => s.jedecId
  | .flashSize => BitVec.ofNat 32 Config.flashSize
  | .sectorSize => BitVec.ofNat 32 Config.sectorSize
  | .pageSize => BitVec.ofNat 32 Config.pageSize
  | .blockSize => s.cfg.blockSize
  | .dbufSize => BitVec.ofNat 32 s.cfg.dbufSize

/-- A write that BUSY = 1 turns away: nothing but OVR changes (10_state.md R45). -/
def overrun (s : State) : State := { s with status := statusOverrun s.status }

/-- A write of `v` to a register. CMD, ADDR, LEN, BOFF, CRC_STATE and CRC_DATA are written only while
BUSY = 0, and set OVR otherwise (R45); STATUS always takes its W1C write (R27); read-only registers ignore
a write (R47). -/
def regWrite (r : Reg) (v : Word) (s : State) : State :=
  match r with
  | .cmd => if s.status.busy then overrun s else accept v s
  | .status => { s with status := statusWrite v s.status }
  | .addr => if s.status.busy then overrun s else { s with addr := v }
  | .len => if s.status.busy then overrun s else { s with len := v }
  | .boff => if s.status.busy then overrun s else { s with boff := v }
  | .crcState => if s.status.busy then overrun s else { s with crcState := v }
  | .crcData =>
    if s.status.busy then overrun s else { s with crcState := crcUpdate s.crcState (byteOf v 0) }
  | .crcResult => s
  | .valCalc => s
  | .valStored => s
  | .jedecId => s
  | .flashSize => s
  | .sectorSize => s
  | .pageSize => s
  | .blockSize => s
  | .dbufSize => s

/-- The number of bytes of an access (20_memory.md R54). -/
def widthBytes : Width → Nat
  | .byte => 1
  | .half => 2
  | .word => 4

/-- The regions of the window (20_memory.md R55-R58). -/
inductive Region where
  /-- A register, by an aligned access of the register width. -/
  | reg (r : Reg)
  /-- The DBUF window, naturally aligned; the index of the first byte. -/
  | dbuf (i : Nat)
  /-- An access the block refuses with BusError. -/
  | refused
  deriving DecidableEq, Repr

/-- The region an access of a width at an offset reaches (20_memory.md R55-R58). With the stated widths and
DBUF_SIZE of 00_scope.md R9 the register region takes aligned words only and the DBUF window is
0x1000-0x1FFF. DESIGN CHOICE (log 28) for other values: an access wider than the bus is refused, the register
region takes accesses of the register width, and the window ends where DBUF does. -/
def regionAt (cfg : Config) (off : Nat) (w : Width) : Region :=
  if cfg.hostBusBits < 8 * widthBytes w then .refused
  else if off < 0x040 then
    if 8 * widthBytes w = cfg.registerBits ∧ off % 4 = 0 then
      match regAt off with
      | some r => .reg r
      | none => .refused
    else .refused
  else if 0x1000 ≤ off ∧ off < 0x1000 + cfg.dbufSize then
    if off % widthBytes w = 0 then .dbuf (off - 0x1000) else .refused
  else .refused

/-- The part of a word that an access of a width carries, zero-extended (20_memory.md R55, R56). -/
def busValue (w : Width) (v : Word) : Word :=
  match w with
  | .byte => (v.setWidth 8).setWidth 32
  | .half => (v.setWidth 16).setWidth 32
  | .word => v

/-- The byte a host read of DBUF byte `x` sees, as byte `k` of the access: a draw in the destination of a
running READ, whether the byte is defined or not (70_reset_and_hazards.md R163); otherwise the byte held,
if it is defined. -/
def hostByte (s : State) (x k : Nat) : Option Byte :=
  if inReadDestination s x then some (Config.freeByte (s.draws + k)) else memGet s.dbuf x

/-- The bytes a host read of `n` DBUF bytes from index `i` sees. -/
def hostBytes (s : State) (i n : Nat) : List (Option Byte) := (List.range n).map fun k => hostByte s (i + k) k

/-- The draws a host read of `n` DBUF bytes from index `i` uses. -/
def hostReadDraws (s : State) (i n : Nat) : Nat :=
  if (List.range n).any fun k => inReadDestination s (i + k) then n else 0

/-- `MemRead(off, n)` (20_memory.md R55): the value goes to the host, here to `readLog`. -/
def hostRead (off : Nat) (w : Width) (s : State) : Result :=
  match regionAt s.cfg off w with
  | .reg r => .next { s with readLog := busValue w (regRead r s) :: s.readLog }
  | .dbuf i =>
    if (hostBytes s i (widthBytes w)).all Option.isSome then
      .next (bump (hostReadDraws s i (widthBytes w))
        { s with readLog := leWord ((hostBytes s i (widthBytes w)).map (Option.getD · 0)) :: s.readLog })
    else .fault .uninitDbufRead
  | .refused => .fault (.busError off)

/-- One byte of the array becomes a draw. -/
def redrawFlash (a : Nat) (s : State) : State :=
  bump 1 { s with dev := { s.dev with flash := flashWrite s.dev.flash a (Config.freeByte s.draws) } }

/-- The byte of a pending program's data that stands for DBUF byte `x` of its chunk becomes a draw; with the
program completed, the byte of the array does. -/
def redrawProgram (l : Latch) (c : Chunk) (x : Nat) (s : State) : State :=
  match s.dev.pending with
  | some (.program a d) =>
    if c.boff ≤ x then
      bump 1 { s with dev := { s.dev with pending := some (.program a (d.set (x - c.boff) (Config.freeByte s.draws))) } }
    else redrawFlash (arrayAddr (flashAddr l + (x - dbufOffset l))) s
  | _ => redrawFlash (arrayAddr (flashAddr l + (x - dbufOffset l))) s

/-- A host write of DBUF byte `x` = b + j of a running PROG_PAGE or WRITE makes Flash[a + j] a draw (R163). A byte
whose program frame has been sent, that is, one not beyond the chunk last issued, takes its draw now; any other
takes it in its frame (`chunkData`). DEDUCED (log 9): that a completed byte takes its draw in the host's step. -/
def redrawIssued (x : Nat) (s : State) : State :=
  match programLatch s, s.issued with
  | some l, some c => if x < c.boff + c.len then redrawProgram l c x s else s
  | _, _ => s

/-- A host write of DBUF byte `x` while a command runs whose DBUF range holds `x` races with it (R163). -/
def raceWrite (x : Nat) (s : State) : State :=
  if inBusyRange s x then
    redrawIssued x { s with raced := if s.raced.contains x then s.raced else x :: s.raced }
  else s

/-- Bytes stored by the host in DBUF from index `i` up (20_memory.md R56): each becomes defined, and races
with the running command if the byte is in its range. -/
def hostStore : Nat → List Byte → State → State
  | _, [], s => s
  | i, v :: vs, s => hostStore (i + 1) vs (raceWrite i { s with dbuf := memSet s.dbuf i v })

/-- The low bytes of a written value, byte 0 first (20_memory.md R56). -/
def valueBytes (v : Word) (w : Width) : List Byte := (List.range (widthBytes w)).map (byteOf v)

/-- `MemWrite(off, n, v)` (20_memory.md R56). -/
def hostWrite (off : Nat) (w : Width) (v : Word) (s : State) : Result :=
  match regionAt s.cfg off w with
  | .reg r => .next (regWrite r (busValue w v) s)
  | .dbuf i => .next (hostStore i (valueBytes v w) s)
  | .refused => .fault (.busError off)

/-- One step of the host agent (20_memory.md R54). -/
def hostStep (acc : Access) (s : State) : Result :=
  match acc with
  | .read off w => hostRead off w s
  | .write off w v => hostWrite off w v s

end Sys2Proof.Machine
end

