-- ==== Sys2Proof/Machine/Micro.lean ====
section
/-! DEFINITION. The micro-steps of the sequencer (40_flash_controller.md R99), each written once and shared
by the commands: the polls of `DevReady` (R103), the steps of `Mutate` (R105), READ's and READ_ID's
transactions, the writes of DBUF and CRC_STATE, the validations, and the frame of a whole command. -/

namespace Sys2Proof.Machine

/-! ### DevReady -/

/-- The phase that follows a pre-poll which has seen the device ready (R104). -/
def afterPrePoll (tmo : Budget) : Job → Phase
  | .receive a n b => .receive a n b
  | .identify => .identify
  | .mutate [] => .finish .ok
  | .mutate (op :: rest) => .writeEnable tmo op rest

/-- The phase that follows the poll after a program or erase frame (R105, R111): the next `Mutate`, or
`finish(OK)`. -/
def afterPostPoll (tmo : Budget) : List MutOp → Phase
  | [] => .finish .ok
  | op :: rest => .writeEnable tmo op rest

/-- One iteration of `DevReady` (R103): read status register 1; a failed transaction finishes ERR_SPI;
bit 0 clear means ready, and the command goes to `ready`; bit 0 set draws a timeout when TIMEOUT_DRAW is
true, and polls again otherwise. -/
def pollStep (l : Latch) (ready : Phase) (s : State) : State :=
  match xfer .readStatus s with
  | (none, s') => enter l (.finish .errSpi) s'
  | (some reply, s') =>
    if (reply.headD 0).getLsbD 0 then
      if s'.cfg.timeoutDraw && Config.freeBool s'.draws then enter l (.finish .errTimeout) (bump 1 s')
      else bump 1 s'
    else enter l ready s'

/-! ### Mutate -/

/-- The write-enable transaction of `Mutate` (R105). -/
def writeEnableStep (l : Latch) (tmo : Budget) (op : MutOp) (rest : List MutOp) (s : State) : State :=
  match xfer .writeEnable s with
  | (none, s') => enter l (.finish .errSpi) s'
  | (some _, s') => enter l (.frame tmo op rest) s'

/-- The data of a program frame (R109, R111): the chunk's DBUF bytes at the micro-step of the frame. A byte
the host has written while the command runs is a draw (70_reset_and_hazards.md R163). -/
def chunkData (c : Chunk) (s : State) : List Byte :=
  (List.range c.len).map fun i =>
    if s.raced.contains (c.boff + i) then Config.freeByte (s.draws + i) else dbufByte s.dbuf (c.boff + i)

/-- Sends the program or erase frame of `Mutate` and goes to its poll (R105). DESIGN CHOICE (log 30): a frame whose
transaction succeeds counts as issued whether or not a device took it, so with no device fitted too a racing host
write makes the flash byte a draw (70_reset_and_hazards.md R163). -/
def sendMutation (l : Latch) (tmo : Budget) (f : Frame) (sent : Option Chunk) (rest : List MutOp)
    (s : State) : State :=
  match xfer f s with
  | (none, s') => enter l (.finish .errSpi) s'
  | (some _, s') => enter l (.postPoll tmo rest) { s' with issued := sent }

/-- The erase frame of a unit at its base (R112-R114). -/
def eraseFrame (u : EraseUnit) (base : Nat) : Frame :=
  match u with
  | .sector => .sectorErase (BitVec.ofNat 32 base)
  | .block => .blockErase (BitVec.ofNat 32 base)
  | .chip => .chipErase

/-- The program or erase frame of `Mutate` (R105). A program frame consumes its DBUF bytes: an undefined
one is a model fault (60_exceptions.md R140). -/
def frameStep (l : Latch) (tmo : Budget) (op : MutOp) (rest : List MutOp) (s : State) : Result :=
  match op with
  | .program c =>
    if dbufDefined s.dbuf c.boff c.len then
      .next (sendMutation l tmo (.pageProgram (BitVec.ofNat 32 c.addr) (chunkData c s)) (some c) rest
        (if s.raced.isEmpty then s else bump c.len s))
    else .fault .uninitDbufRead
  | .erase u base => .next (sendMutation l tmo (eraseFrame u base) none rest s)

/-! ### READ and READ_ID -/

/-- READ's transaction (R108). When it fails, the bytes to store are draws and the code is ERR_SPI. -/
def receiveStep (l : Latch) (a n b : Nat) (s : State) : State :=
  match xfer (.read (BitVec.ofNat 32 a) n) s with
  | (none, s') => enter l (.deposit b (freeBytes s'.draws n) .errSpi) (bump n s')
  | (some reply, s') => enter l (.deposit b reply .ok) s'

/-- READ stores its bytes in DBUF as one micro-step (R99, R108). -/
def depositStep (l : Latch) (b : Nat) (bytes : List Byte) (code : Code) (s : State) : State :=
  enter l (.finish code) { s with dbuf := dbufStore s.dbuf b bytes }

/-- The 24-bit identification of a reply, first byte high (R115). -/
def replyId (reply : List Byte) : Word24 := reply.getD 0 0 ++ reply.getD 1 0 ++ reply.getD 2 0

/-- READ_ID's transaction and its result registers (R115): JEDEC_ID is written only when the transaction
succeeds (10_state.md R37), and ID_OK only when the bytes are the expected ones. -/
def identifyStep (l : Latch) (s : State) : State :=
  match xfer .jedecId s with
  | (none, s') => enter l (.finish .errSpi) s'
  | (some reply, s') =>
    let t := { s' with jedecId := (replyId reply).setWidth 32 }
    if replyId reply = s'.cfg.expectedJedecId then
      enter l (.finish .ok) { t with status := statusIdentified t.status }
    else enter l (.finish .errNodev) t

/-! ### The CRC commands -/

/-- CRC_INIT's update (41_crc_validator.md R123). -/
def seedStep (l : Latch) (s : State) : State := enter l (.finish .ok) { s with crcState := Config.crcSeed }

/-- CRC_BUF's micro-step for byte `i` of DBUF[b..b+n) (R124). -/
def feedStep (l : Latch) (i : Nat) (s : State) : Result :=
  if i < byteCount l then
    match memGet s.dbuf (dbufOffset l + i) with
    | none => .fault .uninitDbufRead
    | some v =>
      .next (enter l (if i + 1 < byteCount l then .feed (i + 1) else .finish .ok)
        { s with crcState := crcUpdate s.crcState v })
  else .next (enter l (.finish .ok) s)

/-- The length of an image (00_scope.md R8). -/
def imageSize : Image → Nat
  | .record => Config.recordSize
  | .header => Config.headerSize

/-- The offset of an image's stored CRC, and the number of bytes it covers (00_scope.md R13, R14). -/
def imageCrcLen : Image → Nat
  | .record => Config.recordCrcLen
  | .header => Config.headerCrcLen

/-- The magic of an image (00_scope.md R8). -/
def imageMagic : Image → Word
  | .record => Config.recordMagic
  | .header => Config.headerMagic

/-- The magic check (41_crc_validator.md R126). -/
def imageMagicOk (img : Image) (m : Memory) (b : Nat) : Bool := le32At m b == imageMagic img

/-- The version check: only a header has a version (R126, R127). -/
def imageVersionOk (img : Image) (m : Memory) (b : Nat) : Bool :=
  match img with
  | .record => false
  | .header => le32At m (b + 4) == Config.headerVersion

/-- The CRC a validation computes (R127, R128). -/
def imageCalc (img : Image) (m : Memory) (b : Nat) : Word := crc32 (dbufBytes m b (imageCrcLen img))

/-- The CRC field a validation reads (R127, R128). -/
def imageStored (img : Image) (m : Memory) (b : Nat) : Word := le32At m (b + imageCrcLen img)

/-- The image is valid (R126). -/
def imageValid (img : Image) (m : Memory) (b : Nat) : Bool :=
  match img with
  | .record => imageMagicOk .record m b && (imageCalc .record m b == imageStored .record m b)
  | .header =>
    imageMagicOk .header m b && imageVersionOk .header m b && (imageCalc .header m b == imageStored .header m b)

/-- A validation's computation (R127, R128): an undefined byte of the image is a model fault; otherwise
VAL_CALC, VAL_STORED and the three result bits are written, and the code is OK or ERR_CRC. -/
def judgeStep (l : Latch) (img : Image) (s : State) : Result :=
  if dbufDefined s.dbuf (dbufOffset l) (imageSize img) then
    .next (enter l (.finish (if imageValid img s.dbuf (dbufOffset l) then .ok else .errCrc))
      { s with
        valCalc := imageCalc img s.dbuf (dbufOffset l)
        valStored := imageStored img s.dbuf (dbufOffset l)
        status := statusValidated (imageMagicOk img s.dbuf (dbufOffset l))
          (imageVersionOk img s.dbuf (dbufOffset l))
          (imageCalc img s.dbuf (dbufOffset l) == imageStored img s.dbuf (dbufOffset l)) s.status })
  else .fault .uninitDbufRead

/-! ### Races settled at finish (70_reset_and_hazards.md R163) -/

/-- A command on which no race has an effect at `finish`: it ends with its code. -/
def settleNone (code : Code) (s : State) : Code × State := (code, s)

/-- READ: each byte of W the host wrote while the command ran holds a draw after `finish`, whatever the code
(R163 has no exception; log 10). -/
def settleRead (code : Code) (s : State) : Code × State :=
  (code, bump s.raced.length
    { s with dbuf := (s.raced.zip (freeBytes s.draws s.raced.length)).foldl (fun m p => memSet m p.1 p.2) s.dbuf })

/-- CRC_BUF: a host write in Rr makes the final CRC_STATE a draw, whatever the code (log 10). -/
def settleCrc (code : Code) (s : State) : Code × State :=
  if s.raced.isEmpty then (code, s)
  else (code, bump 1 { s with crcState := Config.freeWord s.draws })

/-- VALIDATE_RECORD and VALIDATE_HEADER: a host write in Rr makes VAL_CALC, VAL_STORED, MAGIC_OK,
VERSION_OK, CRC_OK and the choice between OK and ERR_CRC draws, whatever the code; a command that fails its
check has no such choice and keeps ERR_PARAM (log 10). -/
def settleValidate (code : Code) (s : State) : Code × State :=
  if s.raced.isEmpty then (code, s)
  else (if code = .errParam then .errParam else if Config.freeBool (s.draws + 5) then .ok else .errCrc,
    bump 6 { s with
      valCalc := Config.freeWord s.draws
      valStored := Config.freeWord (s.draws + 1)
      status := statusValidated (Config.freeBool (s.draws + 2)) (Config.freeBool (s.draws + 3))
        (Config.freeBool (s.draws + 4)) s.status })

/-! ### A whole command -/

/-- One micro-step of a command (R99). `first` is the phase after the decode step; `plan` is the outcome of
the parameter check, from the latch; `settle` applies the races of R163 at `finish`. An Idle sequencer has
no micro-step (10_state.md R42). -/
def runCommand (first : Latch → Phase) (plan : Latch → Phase) (settle : Code → State → Code × State)
    (s : State) : Result :=
  match s.seq with
  | .idle => .next s
  | .run l p =>
    match p with
    | .decode => .next (enter l (first l) s)
    | .check => .next (enter l (plan l) s)
    | .prePoll tmo job => .next (pollStep l (afterPrePoll tmo job) s)
    | .receive a n b => .next (receiveStep l a n b s)
    | .deposit b bytes code => .next (depositStep l b bytes code s)
    | .identify => .next (identifyStep l s)
    | .writeEnable tmo op rest => .next (writeEnableStep l tmo op rest s)
    | .frame tmo op rest => frameStep l tmo op rest s
    | .postPoll tmo rest => .next (pollStep l (afterPostPoll tmo rest) s)
    | .seed => .next (seedStep l s)
    | .feed i => feedStep l i s
    | .judge img => judgeStep l img s
    | .finish code => .next (finish (settle code s).1 (settle code s).2)

/-- The micro-steps of an illegal word (40_flash_controller.md R98): the decode step, then
`finish(ERR_OPCODE)` and nothing else. -/
def runIllegal (s : State) : Result :=
  runCommand (fun _ => .finish .errOpcode) (fun _ => .finish .errOpcode) settleNone s

end Sys2Proof.Machine
end

