-- ==== Sys2Proof/Machine/Control.lean ====
section
/-! DEFINITION. The control family: NOP (40_flash_controller.md R107). -/

namespace Sys2Proof.Machine

/-- NOP (R107): `finish(OK)`. It has no operand and no parameter check. -/
def execNop (s : State) : Result :=
  runCommand (fun _ => .finish .ok) (fun _ => .finish .ok) settleNone s

end Sys2Proof.Machine
end

