-- ==== Sys2Proof/Machine/Flash.lean ====
section
/-! DEFINITION. The flash family (40_flash_controller.md R108-R115). Each command is its parameter check,
in the order of R101, followed by the pre-poll of R104 and its transactions, as micro-steps of
Machine/Micro.lean. -/

namespace Sys2Proof.Machine

/-- READ's check (R108): DBUF bound, flash bound, zero length, then the pre-poll with TMO_PP. -/
def planRead (cfg : Config) (l : Latch) : Phase :=
  if pastDbuf cfg (dbufOffset l) (byteCount l) then .finish .errParam
  else if pastFlash (flashAddr l) (byteCount l) then .finish .errParam
  else if byteCount l = 0 then .finish .ok
  else .prePoll .pageProgram (.receive (flashAddr l) (byteCount l) (dbufOffset l))

/-- PROG_PAGE's check (R109): DBUF bound, flash bound, page bound, zero length, then the pre-poll and one
`Mutate`. -/
def planProgPage (cfg : Config) (l : Latch) : Phase :=
  if pastDbuf cfg (dbufOffset l) (byteCount l) then .finish .errParam
  else if pastFlash (flashAddr l) (byteCount l) then .finish .errParam
  else if crossesPage (flashAddr l) (byteCount l) then .finish .errParam
  else if byteCount l = 0 then .finish .ok
  else .prePoll .pageProgram
    (.mutate [.program { addr := flashAddr l, boff := dbufOffset l, len := byteCount l }])

/-- WRITE's check (R111): DBUF bound, flash bound, zero length, then the pre-poll and one `Mutate` per
chunk of R110, in order. -/
def planWrite (cfg : Config) (l : Latch) : Phase :=
  if pastDbuf cfg (dbufOffset l) (byteCount l) then .finish .errParam
  else if pastFlash (flashAddr l) (byteCount l) then .finish .errParam
  else if byteCount l = 0 then .finish .ok
  else .prePoll .pageProgram
    (.mutate ((chunks (flashAddr l) (dbufOffset l) (byteCount l)).map .program))

/-- ERASE_SECTOR's check (R112): flash bound, then the pre-poll with TMO_SE and one `Mutate`. -/
def planEraseSector (l : Latch) : Phase :=
  if outsideFlash (flashAddr l) then .finish .errParam
  else .prePoll .sectorErase (.mutate [.erase .sector (sectorBase l.a)])

/-- ERASE_BLOCK's check (R113): flash bound, then the pre-poll with TMO_BE and one `Mutate`. -/
def planEraseBlock (cfg : Config) (l : Latch) : Phase :=
  if outsideFlash (flashAddr l) then .finish .errParam
  else .prePoll .blockErase (.mutate [.erase .block (blockBase cfg.blockSize l.a)])

/-- ERASE_CHIP's micro-program (R114): no parameter check can fail. -/
def planEraseChip (_ : Latch) : Phase := .prePoll .chipErase (.mutate [.erase .chip 0])

/-- READ_ID's micro-program (R115): no parameter check; the pre-poll uses TMO_PP (R104). -/
def planReadId (_ : Latch) : Phase := .prePoll .pageProgram .identify

/-- READ (R108): flash to DBUF. -/
def execRead (s : State) : Result := runCommand (fun _ => .check) (planRead s.cfg) settleRead s

/-- PROG_PAGE (R109): one page-program operation. -/
def execProgPage (s : State) : Result := runCommand (fun _ => .check) (planProgPage s.cfg) settleNone s

/-- WRITE (R111): arbitrary-length program. -/
def execWrite (s : State) : Result := runCommand (fun _ => .check) (planWrite s.cfg) settleNone s

/-- ERASE_SECTOR (R112). -/
def execEraseSector (s : State) : Result := runCommand (fun _ => .check) planEraseSector settleNone s

/-- ERASE_BLOCK (R113). -/
def execEraseBlock (s : State) : Result := runCommand (fun _ => .check) (planEraseBlock s.cfg) settleNone s

/-- ERASE_CHIP (R114). -/
def execEraseChip (s : State) : Result := runCommand planEraseChip planEraseChip settleNone s

/-- READ_ID (R115). -/
def execReadId (s : State) : Result := runCommand planReadId planReadId settleNone s

end Sys2Proof.Machine
end

