-- ==== Sys2Proof/Machine/Validator.lean ====
section
/-! DEFINITION. The crc family: CRC_INIT, CRC_BUF, VALIDATE_RECORD and VALIDATE_HEADER
(41_crc_validator.md R123, R124, R127, R128). -/

namespace Sys2Proof.Machine

/-- CRC_BUF's check (R124): DBUF bound, zero length, then one micro-step per byte. -/
def planCrcBuf (cfg : Config) (l : Latch) : Phase :=
  if pastDbuf cfg (dbufOffset l) (byteCount l) then .finish .errParam
  else if byteCount l = 0 then .finish .ok
  else .feed 0

/-- VALIDATE_RECORD's check (R127): `b + 64 > DBUF_SIZE` is ERR_PARAM. -/
def planValidateRecord (cfg : Config) (l : Latch) : Phase :=
  if pastDbuf cfg (dbufOffset l) Config.recordSize then .finish .errParam else .judge .record

/-- VALIDATE_HEADER's check (R128): `b + 44 > DBUF_SIZE` is ERR_PARAM. -/
def planValidateHeader (cfg : Config) (l : Latch) : Phase :=
  if pastDbuf cfg (dbufOffset l) Config.headerSize then .finish .errParam else .judge .header

/-- CRC_INIT (R123): CRC_STATE takes the seed. It has no parameter check and makes no SPI traffic. -/
def execCrcInit (s : State) : Result := runCommand (fun _ => .seed) (fun _ => .seed) settleNone s

/-- CRC_BUF (R124): feed a DBUF range into the running CRC. -/
def execCrcBuf (s : State) : Result := runCommand (fun _ => .check) (planCrcBuf s.cfg) settleCrc s

/-- VALIDATE_RECORD (R127). -/
def execValidateRecord (s : State) : Result :=
  runCommand (fun _ => .check) (planValidateRecord s.cfg) settleValidate s

/-- VALIDATE_HEADER (R128). -/
def execValidateHeader (s : State) : Result :=
  runCommand (fun _ => .check) (planValidateHeader s.cfg) settleValidate s

end Sys2Proof.Machine
end

