-- ==== Sys2Proof/Machine/Dispatch.lean ====
section
/-! DEFINITION. The dispatch: one micro-step of the running command, one arm per command
(30_encoding.md R88, 40_flash_controller.md R99). -/

namespace Sys2Proof.Machine

def exec (i : Instr) (s : State) : Host.Outcome State Fault Refusal :=
  match i with
  | .nop => Sys2Proof.Machine.execNop s
  | .read => Sys2Proof.Machine.execRead s
  | .progPage => Sys2Proof.Machine.execProgPage s
  | .write => Sys2Proof.Machine.execWrite s
  | .eraseSector => Sys2Proof.Machine.execEraseSector s
  | .eraseBlock => Sys2Proof.Machine.execEraseBlock s
  | .eraseChip => Sys2Proof.Machine.execEraseChip s
  | .readId => Sys2Proof.Machine.execReadId s
  | .crcInit => Sys2Proof.Machine.execCrcInit s
  | .crcBuf => Sys2Proof.Machine.execCrcBuf s
  | .validateRecord => Sys2Proof.Machine.execValidateRecord s
  | .validateHeader => Sys2Proof.Machine.execValidateHeader s

end Sys2Proof.Machine
end

