-- ==== Sys2Proof/Machine/Environment.lean ====
section
/-! DEFINITION. The environment's step: power-on, power loss and system reset, which have one effect
(70_reset_and_hazards.md R154-R157). -/

namespace Sys2Proof.Machine

/-- An operation interrupted by a reset leaves its whole range as draws (70_reset_and_hazards.md R156). -/
def interruptDevice (s : State) : State :=
  match s.dev.pending with
  | none => s
  | some op => drawRange op s

/-- A reset (R154): every register takes its reset value (10_state.md R25, R27, R53), the sequencer is
Idle, every DBUF byte is undefined (R155), the interrupted operation is settled as R156 says, and the
device has nothing pending and WEL clear. The array keeps every other byte (10_state.md R38). -/
def resetStep (s : State) : State :=
  let t := settleDevice (interruptDevice s)
  { t with
    cmd := 0, status := Status.reset, addr := 0, len := 0, boff := 0
    crcState := Config.crcSeed, valCalc := 0, valStored := 0, jedecId := 0
    dbuf := [], seq := .idle, raced := [], issued := none }

end Sys2Proof.Machine
end

