-- ==== Sys2Proof/Machine/Fetch.lean ====
section
/-! DEFINITION. What one step does: a micro-step of the running command from its latched word
(40_flash_controller.md R98, R99), one move of one of the four agents (00_scope.md R15), and how a command
word is placed for the next step. Step.lean only calls these. -/

namespace Sys2Proof.Machine

/-- The sequencer's micro-step (R98, R99): the latched word is decoded, and the command it selects, or the
illegal word, takes its next micro-step. An Idle sequencer has none (10_state.md R42). -/
def sequencerStep (s : State) : Result :=
  match s.seq with
  | .idle => .next s
  | .run l _ =>
    match decode l.opw with
    | .ok i => exec i s
    | .error _ => runIllegal s

/-- One move of one agent (00_scope.md R15). -/
def moveStep (m : Move) (s : State) : Result :=
  match m with
  | .host acc => hostStep acc s
  | .sequencer => sequencerStep s
  | .device => .next (deviceStep s)
  | .reset => .next (resetStep s)

/-- The agent that moves when the agenda names none: the device if an operation is pending, and else the
sequencer. This schedule is weakly fair (70_reset_and_hazards.md R171). -/
def defaultMove (s : State) : Move := if devBusy s.dev then .device else .sequencer

/-- One step of the machine: the head of the agenda, or the default move. -/
def agentStep (s : State) : Result :=
  match s.agenda with
  | [] => moveStep (defaultMove s) s
  | m :: rest => moveStep m { s with agenda := rest }

/-- The command word `w` stands accepted in the latch (40_flash_controller.md R97) and the sequencer moves
next: by default where it would, and by a move of the agenda otherwise. -/
def placeCommand (w : Word) (s : State) : State :=
  let t := accept w s
  if s.agenda = [] ∧ devBusy s.dev = false then t else { t with agenda := .sequencer :: s.agenda }

end Sys2Proof.Machine
end

