-- ==== Sys2Proof/Machine/Step.lean ====
section
/-! DEFINITION. The step function of the machine and the placing of a command word for the next step. -/

namespace Sys2Proof.Machine

/-- One atomic step of one agent (00_scope.md R15, 20_memory.md R82). -/
def step (s : State) : Host.Outcome State Fault Refusal := agentStep s

/-- The command word with bits `w` (every bit from `nbits` up is 0) as the accepted command that the very
next step runs. The block fetches nothing (10_state.md R51): this stands for the host's write of CMD
(40_flash_controller.md R97). -/
def State.withFetchWord (s : State) (nbits w : Nat) : State := placeCommand (BitVec.ofNat 32 (w % 2 ^ nbits)) s

end Sys2Proof.Machine
end

