-- ==== Sys2Proof/WellFormed.lean ====
section
/-! DEFINITION. The well-formedness checks over the syntax and the configuration. A command of this
block has no operand, so every `Instr` is well-formed; what can be ill-formed is a CMD word (30_encoding.md
R92) and the configuration's sizes and widths (00_scope.md R9, 40_flash_controller.md R113). -/

namespace Sys2Proof

/-- RSVD is 0 (30_encoding.md R87). -/
def reservedBitsClear (w : Word) : Bool := rsvdField w == 0#24

/-- The OPCODE is one the map of R88 assigns. -/
def opcodeAssigned (w : Word) : Bool := (decodeOpcode (opcodeField w)).isSome

/-- A CMD word that selects a command (R89). -/
def wordWellFormed (w : Word) : Bool := reservedBitsClear w && opcodeAssigned w

/-- BLOCK_SIZE is a power of two that divides the array, so that `a and not (BLOCK_SIZE - 1)` is the base
of a block inside it (R113, 00_scope.md R10). -/
def blockSizeOk (c : Config) : Bool := (List.range 22).any fun k => c.blockSize.toNat == 2 ^ k

/-- DBUF_SIZE is whole words, so that an aligned access lies inside the window or outside it, and fits its
register. -/
def dbufSizeOk (c : Config) : Bool := c.dbufSize % 4 == 0 && decide (c.dbufSize < 2 ^ 32)

/-- The SPI address is whole bytes, reaches the whole array, and fits a frame's address word. -/
def spiAddrOk (c : Config) : Bool := c.spiAddrBits == 24 || c.spiAddrBits == 32

/-- A configuration a launch state may carry. -/
def configWellFormed (c : Config) : Bool := blockSizeOk c && dbufSizeOk c && spiAddrOk c

/-- DBUF_SIZE and the three widths have the values 00_scope.md R9 states. -/
def statedSizes (c : Config) : Bool :=
  c.dbufSize == 4096 && c.hostBusBits == 32 && c.registerBits == 32 && c.spiAddrBits == 24

/-- A command is well-formed when its word is: every one is (no operand field, R87). -/
def instrWellFormed (i : Instr) : Bool := wordWellFormed (encode i)

end Sys2Proof
end

