-- ==== Sys2Proof/Safety.lean ====
section
/-! DEFINITION. The terms claims are stated in: a schedule of moves played from a state, the premises of a
launch state (70_reset_and_hazards.md R160), the end of a run (R173), and the machine's invariant. -/

namespace Sys2Proof.Safety

open Sys2Proof.Machine

/-- `k` steps of the machine, stopping at the first fault or refusal. -/
def run : Nat → State → Result
  | 0, s => .next s
  | k + 1, s =>
    match step s with
    | .next t => run k t
    | .fault e => .fault e
    | .refused r => .refused r

/-- The machine plays the moves `ms`, in order, before the rest of its agenda: `ms.length` steps. -/
def play (ms : List Move) (s : State) : Result := run ms.length { s with agenda := ms ++ s.agenda }

/-- `k` moves of the sequencer. -/
abbrev seqMoves (k : Nat) : List Move := List.replicate k .sequencer

/-- A device is fitted and has nothing pending (`dev_idle` of R160). -/
def deviceReady (s : State) : Prop := s.dev.fitted ≠ none ∧ s.dev.pending = none

/-- The transaction that `s` is about to make fails: the switch is on and the draw says so (40_flash_controller.md
R102). -/
abbrev transactionFails (s : State) : Prop := s.cfg.spiFaultDraw = true ∧ Config.freeBool s.draws = true

/-- What a claim states of its launch state (R160): STATUS, the defined DBUF bytes with their values, the array
and the configuration. The defaults are STATUS after reset, no defined byte, a blank array and the defaults of the
configuration fields. -/
structure Launch where
  /-- `block_idle`: STATUS as after reset, or as the claim states. -/
  status : Status := Status.reset
  /-- `dbuf_def S`. -/
  dbuf : Memory := []
  /-- `flash F`. -/
  flash : Memory := []
  /-- `cfg`. -/
  cfg : Config := {}
  deriving DecidableEq, Repr

/-- `block_idle` (R160): the sequencer is Idle, and STATUS is the one stated, with BUSY = 0 (10_state.md R42). -/
def blockIdle (st : Status) (s : State) : Prop := s.seq = .idle ∧ s.status = st ∧ st.busy = false

/-- The named premises of a launch state (R160), with memories in canonical form and a well-formed configuration.
A fault ends a run with no state after it, so `no_fault` holds of every state. -/
def launchOk (p : Launch) (s : State) : Prop :=
  blockIdle p.status s ∧ s.dev.pending = none ∧ devUnprotected s.dev = true ∧
    s.dbuf = p.dbuf ∧ s.dev.flash = p.flash ∧ s.cfg = p.cfg ∧
    flashWf p.flash ∧ dbufWf p.cfg.dbufSize p.dbuf ∧ configWellFormed p.cfg = true

/-- A run has ended (R173): the host has no access left, the sequencer is Idle and nothing is pending. -/
def runEnded (s : State) : Prop := s.agenda = [] ∧ s.seq = .idle ∧ s.dev.pending = none

/-- The outcome of a command's parameter check, by command (40_flash_controller.md R101). -/
def planOf (cfg : Config) (i : Instr) (l : Latch) : Phase :=
  match i with
  | .nop => .finish .ok
  | .read => planRead cfg l
  | .progPage => planProgPage cfg l
  | .write => planWrite cfg l
  | .eraseSector => planEraseSector l
  | .eraseBlock => planEraseBlock cfg l
  | .eraseChip => planEraseChip l
  | .readId => planReadId l
  | .crcInit => .seed
  | .crcBuf => planCrcBuf cfg l
  | .validateRecord => planValidateRecord cfg l
  | .validateHeader => planValidateHeader cfg l

/-- The outcome of the parameter check of a latched word, legal or not. -/
def planOfWord (cfg : Config) (l : Latch) : Phase :=
  match decode l.opw with
  | .ok i => planOf cfg i l
  | .error _ => .finish .errOpcode

/-- The codes a micro-program that starts at `plan` can finish with (60_exceptions.md R133). -/
def codeFits (plan : Phase) (code : Code) : Prop :=
  match plan with
  | .finish c => code = c
  | .prePoll _ (.receive _ _ _) => code = .ok ∨ code = .errSpi ∨ code = .errTimeout
  | .prePoll _ (.mutate _) => code = .ok ∨ code = .errSpi ∨ code = .errTimeout
  | .prePoll _ .identify => code = .ok ∨ code = .errSpi ∨ code = .errTimeout ∨ code = .errNodev
  | .seed => code = .ok
  | .feed _ => code = .ok
  | .judge _ => code = .ok ∨ code = .errCrc
  | _ => False

/-- Phase `p` is a phase of the micro-program that the check's outcome `plan` starts, for latch `l`
(10_state.md R42): every operand in it is the latch's, and a mutation list is what is left of the plan's. -/
def phaseFits (l : Latch) (plan p : Phase) : Prop :=
  match p with
  | .decode => True
  | .check => True
  | .prePoll tmo job => plan = .prePoll tmo job
  | .receive a n b => ∃ tmo, plan = .prePoll tmo (.receive a n b)
  | .deposit b bytes code =>
    (∃ tmo a, plan = .prePoll tmo (.receive a bytes.length b)) ∧ (code = .ok ∨ code = .errSpi)
  | .identify => ∃ tmo, plan = .prePoll tmo .identify
  | .writeEnable tmo op rest => ∃ ops, plan = .prePoll tmo (.mutate ops) ∧ (op :: rest) <:+ ops
  | .frame tmo op rest => ∃ ops, plan = .prePoll tmo (.mutate ops) ∧ (op :: rest) <:+ ops
  | .postPoll tmo rest => ∃ ops, plan = .prePoll tmo (.mutate ops) ∧ rest <:+ ops
  | .seed => plan = .seed
  | .feed i => plan = .feed 0 ∧ i < byteCount l
  | .judge img => plan = .judge img
  | .finish code => codeFits plan code

/-- The pending operation lies in the array, and a program inside one page (20_memory.md R68, R73). -/
def opOk : DevOp → Prop
  | .program a d => a % Config.pageSize + d.length ≤ Config.pageSize ∧ a + d.length ≤ Config.flashSize
  | .erase lo hi => lo ≤ hi ∧ hi ≤ Config.flashSize
  | .draws lo hi => lo ≤ hi ∧ hi ≤ Config.flashSize

/-- The invariant of the machine: what every step keeps, from every state. -/
structure Inv (s : State) : Prop where
  /-- The sizes and widths of the configuration are well formed (00_scope.md R9, R10). -/
  cfg_ok : configWellFormed s.cfg = true
  /-- The flash array is in canonical form. -/
  flash_wf : flashWf s.dev.flash
  /-- DBUF is in canonical form. -/
  dbuf_wf : dbufWf s.cfg.dbufSize s.dbuf
  /-- `Idle` holds exactly when STATUS.BUSY = 0 (10_state.md R42). -/
  busy_iff : s.status.busy = true ↔ s.seq ≠ .idle
  /-- While BUSY = 1, DONE is 0 and ERR reads 0: acceptance clears both and only `finish` sets them (R29,
  R31). -/
  busy_clear : s.status.busy = true → s.status.done = false ∧ s.status.err = .ok
  /-- The reserved bits 31:24 of JEDEC_ID read 0 (R46). -/
  jedec_reserved : s.jedecId.extractLsb' 24 8 = 0#8
  /-- While a command runs, CMD and the operand registers hold what the latch copied (R43, R45). -/
  latch_eq : ∀ l p, s.seq = .run l p → l = { opw := s.cmd, a := s.addr, n := s.len, b := s.boff }
  /-- The phase is one of the running command's micro-program (R42). -/
  phase_ok : ∀ l p, s.seq = .run l p → phaseFits l (planOfWord s.cfg l) p
  /-- The pending operation lies in the array. -/
  pending_ok : ∀ op, s.dev.pending = some op → opOk op
  /-- Raced indices lie in DBUF. -/
  raced_ok : ∀ x ∈ s.raced, x < s.cfg.dbufSize

end Sys2Proof.Safety
end

