-- ==== Sys2Proof/Certificates/Slice0/Obligations.lean ====
section
/-! DEFINITION. The statements for the provers. Each docstring names the rule of spec/ it formalises, or the
entry of the assumption log where it is the model's own choice. Every conclusion of the form
`... = .next { s with ... }` states the frame too: every field not listed is unchanged. `statedSizes` says that
DBUF_SIZE and the three widths have the values 00_scope.md R9 states, `configWellFormed` that the overridable sizes
are usable (log 23, log 28); the default configuration meets both. -/

open Sys2Proof Sys2Proof.Machine Sys2Proof.Safety

/-! ### Encoding -/

/-- 30_encoding.md R88: the word of each command is its opcode of the map under RSVD = 0, and decoding and encoding
agree both ways on all 2^32 words: the decoder answers a command on exactly its word, and Illegal on every other. -/
def Obligations.DecodeAnswersExactlyTheOpcodeMap : Prop :=
  ∀ (w : Word) (i : Instr), (decode w = .ok i ↔ w = encode i) ∧
    encode i = match i with
      | .nop => 0x00000000#32
      | .read => 0x00000001#32
      | .progPage => 0x00000002#32
      | .write => 0x00000003#32
      | .eraseSector => 0x00000004#32
      | .eraseBlock => 0x00000005#32
      | .eraseChip => 0x00000006#32
      | .readId => 0x00000007#32
      | .crcInit => 0x00000010#32
      | .crcBuf => 0x00000011#32
      | .validateRecord => 0x00000012#32
      | .validateHeader => 0x00000013#32

/-- 30_encoding.md R88: words written out from the opcode map, one of each family and two reserved ones. -/
def Obligations.DecodeReadsWrittenOutWords : Prop :=
  decodeTableWord 32 0b00000000000000000000000000000000 = some .nop ∧
    decodeTableWord 32 0b00000000000000000000000000000001 = some .read ∧
    decodeTableWord 32 0b00000000000000000000000000000110 = some .eraseChip ∧
    decodeTableWord 32 0b00000000000000000000000000010001 = some .crcBuf ∧
    decodeTableWord 32 0b00000000000000000000000000010011 = some .validateHeader ∧
    decodeTableWord 32 0b00000000000000000000000000001000 = none ∧
    decodeTableWord 32 0b00000000000000000000000100000001 = none

/-- 20_memory.md R62, R75: reading a frame's bytes on the wire gives the frame back, with every data byte and every
address that fits the SPI address width, which is 24 bits as R62 states it (log 28 for another). -/
def Obligations.FrameBytesDetermineTheFrame : Prop :=
  ∀ (cfg : Config) (f : Frame), configWellFormed cfg = true → (frameAddr f).toNat < 2 ^ cfg.spiAddrBits →
    parseFrame cfg (frameBytes cfg f) (frameIn f) = some f

/-! ### One step -/

/-- 00_scope.md R15, 20_memory.md R54, R82, 40_flash_controller.md R98, R99: a step is one move of one agent, the head
of the agenda, at that state less the move: a host access, a completion step of the device, a reset, or, where the
sequencer moves, the micro-step of the command its latched word decodes to; an idle sequencer has none. What moves on
an empty agenda is the model's choice (log 1): the device if an operation is pending, and else the sequencer. -/
def Obligations.StepRunsTheDecodedCommand : Prop :=
  ∀ (s : State),
    (∀ m rest, s.agenda = m :: rest → step s = moveStep m { s with agenda := rest }) ∧
    (∀ acc rest, s.agenda = .host acc :: rest → step s = hostStep acc { s with agenda := rest }) ∧
    (∀ rest, s.agenda = .sequencer :: rest → s.seq = .idle → step s = .next { s with agenda := rest }) ∧
    (s.agenda = [] → step s = moveStep (if s.dev.pending = none then .sequencer else .device) s) ∧
    (∀ (l : Latch) (p : Phase) (i : Instr), s.seq = .run l p → decode l.opw = .ok i →
      (∀ rest, s.agenda = .sequencer :: rest → step s = exec i { s with agenda := rest }) ∧
        (s.agenda = [] → s.dev.pending = none → step s = exec i s))

/-- The model's choice (log 2): a placed word is an accepted command, and the very next step is the first
micro-step of the command it decodes to. -/
def Obligations.PlacedWordRunsInTheNextStep : Prop :=
  ∀ (s : State) (w : Word) (i : Instr), decode w = .ok i →
    step (s.withFetchWord 32 w.toNat) = exec i (accept w s)

/-- 30_encoding.md R92, 40_flash_controller.md R98: a word with a reserved bit or a reserved opcode is
decoded and finished with ERR_OPCODE, and nothing but STATUS and the sequencer changes. That the decode step and
`finish` are two moves is the model's choice (log 12). -/
def Obligations.IllegalWordFinishesErrOpcode : Prop :=
  ∀ (s : State) (l : Latch), s.seq = .run l .decode →
    (rsvdField l.opw ≠ 0#24 ∨
      (8 ≤ (opcodeField l.opw).toNat ∧ (opcodeField l.opw).toNat ≤ 15) ∨
      20 ≤ (opcodeField l.opw).toNat) →
    play (seqMoves 2) s = .next { s with
      status := { s.status with busy := false, done := true, err := .errOpcode }
      seq := .idle, raced := [], issued := none }

/-- 60_exceptions.md R140: a command stops the machine only by `ModelFault(UninitDbufRead)`, and only at a
micro-step that consumes DBUF bytes, one of which is undefined. -/
def Obligations.CommandsFaultOnlyOnUndefinedBytes : Prop :=
  ∀ (i : Instr) (s : State) (f : Fault), exec i s = .fault f →
    f = .uninitDbufRead ∧ ∃ l p, s.seq = .run l p ∧
      ((∃ tmo c rest, p = .frame tmo (.program c) rest ∧ dbufDefined s.dbuf c.boff c.len = false) ∨
        (∃ k, p = .feed k ∧ k < byteCount l ∧ memGet s.dbuf (dbufOffset l + k) = none) ∨
        (∃ img, p = .judge img ∧ dbufDefined s.dbuf (dbufOffset l) (imageSize img) = false))

/-- The model's choice (log 27): nothing is refused. For CMD words it is 30_encoding.md R88 and R89, which give each of
them a command or Illegal; that no host access, completion step or reset is refused is the model's own. -/
def Obligations.NoStepRefuses : Prop := ∀ (s : State) (r : Refusal), step s ≠ .refused r

/-! ### The host bus and the registers -/

/-- 40_flash_controller.md R97: a write of CMD while BUSY = 0 is the acceptance; while BUSY = 1 it only sets
OVR. That the race fields `raced` and `issued` start empty is the model's own (log 21). -/
def Obligations.CmdWriteAcceptsOrSetsOvr : Prop :=
  ∀ (s : State) (w : Word), statedSizes s.cfg = true → hostStep (.write 0x000 .word w) s = .next
    (if s.status.busy = false then
      { s with
        cmd := w
        seq := .run { opw := w, a := s.addr, n := s.len, b := s.boff } .decode
        status := { s.status with
          busy := true, done := false, err := .ok
          magicOk := false, versionOk := false, crcOk := false, idOk := false }
        raced := [], issued := none }
    else { s with status := { s.status with ovr := true } })

/-- 10_state.md R45, R47: while BUSY = 1, writes of the six command and operand registers only set OVR, a write of
STATUS is performed, a DBUF write outside the running command's range is performed, and every register reads its
current value. Whatever BUSY is, a write of a read-only register is ignored and does not set OVR. -/
def Obligations.AccessesWhileBusyAndReadOnlyWrites : Prop :=
  ∀ (s : State) (v : Word), statedSizes s.cfg = true →
    (∀ off ∈ [0x018, 0x020, 0x024, 0x028, 0x02C, 0x030, 0x034, 0x038, 0x03C],
      hostStep (.write off .word v) s = .next s) ∧
    (s.status.busy = true →
      (∀ off ∈ [0x000, 0x008, 0x00C, 0x010, 0x014, 0x01C],
        hostStep (.write off .word v) s = .next { s with status := { s.status with ovr := true } }) ∧
      hostStep (.write 0x004 .word v) s = .next { s with status := statusWrite v s.status } ∧
      (∀ x < 4096, inBusyRange s x = false →
        hostStep (.write (0x1000 + x) .byte v) s = .next { s with dbuf := memSet s.dbuf x (v.setWidth 8) }) ∧
      (∀ off < 0x40, off % 4 = 0 → ∃ r, regAt off = some r ∧
        hostStep (.read off .word) s = .next { s with readLog := regRead r s :: s.readLog }))

/-- 10_state.md R33, R35: while BUSY = 0 every bit of ADDR, LEN, BOFF and CRC_STATE is stored. -/
def Obligations.OperandRegistersStoreEveryBit : Prop :=
  ∀ (s : State) (v : Word), statedSizes s.cfg = true → s.status.busy = false →
    hostStep (.write 0x008 .word v) s = .next { s with addr := v } ∧
    hostStep (.write 0x00C .word v) s = .next { s with len := v } ∧
    hostStep (.write 0x010 .word v) s = .next { s with boff := v } ∧
    hostStep (.write 0x014 .word v) s = .next { s with crcState := v }

/-- 10_state.md R27 (its bits and its write), R46: the places of STATUS's fields, its reserved bits, and what a
write of it does. -/
def Obligations.StatusBitsAndWrite : Prop :=
  ∀ (s : State) (v : Word), statedSizes s.cfg = true →
    ((statusWord s.status).getLsbD 0 = s.status.busy ∧ (statusWord s.status).getLsbD 1 = s.status.done ∧
      (statusWord s.status).getLsbD 2 = s.status.ovr ∧
      (statusWord s.status).extractLsb' 4 4 = codeValue s.status.err ∧
      (statusWord s.status).getLsbD 16 = s.status.magicOk ∧
      (statusWord s.status).getLsbD 17 = s.status.versionOk ∧
      (statusWord s.status).getLsbD 18 = s.status.crcOk ∧ (statusWord s.status).getLsbD 19 = s.status.idOk ∧
      statusWord s.status &&& 0xFFF0FF08#32 = 0#32) ∧
    ∃ t, hostStep (.write 0x004 .word v) s = .next { s with status := t } ∧
      statusWord t = statusWord s.status &&& ~~~(v &&& 0x00000006#32)

/-- 41_crc_validator.md R125: a write of CRC_DATA feeds bits 7:0 while BUSY = 0, sets OVR while BUSY = 1, and a
read returns 0. -/
def Obligations.CrcDataFeedsOneByte : Prop :=
  ∀ (s : State) (v : Word), statedSizes s.cfg = true →
    hostStep (.write 0x01C .word v) s = .next
      (if s.status.busy = true then { s with status := { s.status with ovr := true } }
      else { s with crcState := crcUpdate s.crcState (v.extractLsb' 0 8) }) ∧
    hostStep (.read 0x01C .word) s = .next { s with readLog := 0#32 :: s.readLog }

/-- 10_state.md R25, R36, R39, R47: what a read of each of the sixteen registers returns. The model's reading (log 23,
from 00_scope.md R9): BLOCK_SIZE reads the configured value, where R25 and R39 give the constant 0x00010000 of the
default configuration. -/
def Obligations.RegisterReadsReturn : Prop :=
  ∀ (s : State), statedSizes s.cfg = true → ∀ p ∈ ([(0x000, s.cmd), (0x004, statusWord s.status), (0x008, s.addr), (0x00C, s.len),
      (0x010, s.boff), (0x014, s.crcState), (0x018, s.crcState ^^^ 0xFFFFFFFF#32), (0x01C, 0#32),
      (0x020, s.valCalc), (0x024, s.valStored), (0x028, s.jedecId), (0x02C, 0x00200000#32),
      (0x030, 0x00001000#32), (0x034, 0x00000100#32), (0x038, s.cfg.blockSize), (0x03C, 0x00001000#32)] :
      List (Nat × Word)),
    hostStep (.read p.1 .word) s = .next { s with readLog := p.2 :: s.readLog }

/-- 20_memory.md R57, R58: exactly the accesses with a width or an alignment the region refuses, and the
accesses outside both regions, raise BusError: a write if and only if it is one of them, and a read likewise. -/
def Obligations.BusErrorExactlyOnRefusedAccesses : Prop :=
  ∀ (s : State) (off : Nat) (w : Width) (v : Word), statedSizes s.cfg = true →
    (hostStep (.write off w v) s = .fault (.busError off) ↔
      (off < 0x40 ∧ (w ≠ .word ∨ off % 4 ≠ 0)) ∨ (0x40 ≤ off ∧ off < 0x1000) ∨
        (0x1000 ≤ off ∧ off < 0x2000 ∧ off % widthBytes w ≠ 0) ∨ 0x2000 ≤ off) ∧
    (hostStep (.read off w) s = .fault (.busError off) ↔
      (off < 0x40 ∧ (w ≠ .word ∨ off % 4 ≠ 0)) ∨ (0x40 ≤ off ∧ off < 0x1000) ∨
        (0x1000 ≤ off ∧ off < 0x2000 ∧ off % widthBytes w ≠ 0) ∨ 0x2000 ≤ off)

/-- 20_memory.md R55, R56, R59: an aligned write of 1, 2 or 4 bytes to DBUF outside the range of a running command
(with BUSY = 0, anywhere) stores the low bytes of its value in little-endian order, each now defined, and leaves
every other byte of DBUF and all other state; every aligned byte, halfword and word read that lies inside it then
returns those bytes, little-endian and zero-extended. -/
def Obligations.DbufIsLittleEndian : Prop :=
  ∀ (s : State) (i : Nat) (w : Width) (v : Word), statedSizes s.cfg = true → i % widthBytes w = 0 →
    i + widthBytes w ≤ 4096 → (∀ k < widthBytes w, inBusyRange s (i + k) = false) →
    ∃ t, hostStep (.write (0x1000 + i) w v) s = .next t ∧
      t = { s with dbuf := t.dbuf } ∧
      (∀ x, (x < i ∨ i + widthBytes w ≤ x) → memGet t.dbuf x = memGet s.dbuf x) ∧
      (∀ k < widthBytes w, memGet t.dbuf (i + k) = some (v.extractLsb' (8 * k) 8)) ∧
      (∀ (u : Width) (k : Nat), (i + k) % widthBytes u = 0 → k + widthBytes u ≤ widthBytes w →
        hostStep (.read (0x1000 + i + k) u) t =
          .next { t with readLog := (v.extractLsb' (8 * k) (8 * widthBytes u)).setWidth 32 :: t.readLog })

/-- 20_memory.md R55, 10_state.md R34: an aligned host read in the DBUF window is a model fault exactly when it
meets an undefined byte outside the destination of a running READ. -/
def Obligations.HostReadFaultsOnUndefinedDbuf : Prop :=
  ∀ (s : State) (i : Nat) (w : Width), statedSizes s.cfg = true → i < 4096 → (0x1000 + i) % widthBytes w = 0 →
    (hostStep (.read (0x1000 + i) w) s = .fault .uninitDbufRead ↔
      ∃ k < widthBytes w, inReadDestination s (i + k) = false ∧ memGet s.dbuf (i + k) = none)

/-- 20_memory.md R78: a read has no side effect: only the model's log of read values and draw index change, and
with no READ running the same read again returns the same value. -/
def Obligations.ReadsHaveNoSideEffect : Prop :=
  ∀ (s t : State) (off : Nat) (w : Width), hostStep (.read off w) s = .next t →
    (∃ v d, t = { s with readLog := v :: s.readLog, draws := s.draws + d }) ∧
      ((∀ x, inReadDestination s x = false) →
        ∃ v, t = { s with readLog := v :: s.readLog } ∧
          hostStep (.read off w) t = .next { t with readLog := v :: t.readLog })

/-! ### The CRC function -/

/-- 41_crc_validator.md R120: the table form of `crc_update`, and the entries the rule lists. -/
def Obligations.CrcTableFormAgrees : Prop :=
  (∀ (c : Word) (d : Byte), crcUpdate c d = crcTable ((c ^^^ d.setWidth 32).extractLsb' 0 8) ^^^ (c >>> 8)) ∧
    crcTable 0 = 0x00000000#32 ∧ crcTable 1 = 0x77073096#32 ∧ crcTable 2 = 0xEE0E612C#32 ∧
    crcTable 3 = 0x990951BA#32 ∧ crcTable 4 = 0x076DC419#32 ∧ crcTable 8 = 0x0EDB8832#32 ∧
    crcTable 16 = 0x1DB71064#32 ∧ crcTable 32 = 0x3B6E20C8#32 ∧ crcTable 64 = 0x76DC4190#32 ∧
    crcTable 128 = 0xEDB88320#32 ∧ crcTable 255 = 0x2D02EF8D#32

/-- 41_crc_validator.md R121: the digest of no bytes, and of the ASCII bytes "123456789". -/
def Obligations.CrcCheckValue : Prop :=
  crc32 [] = 0x00000000#32 ∧
    crc32 [0x31#8, 0x32#8, 0x33#8, 0x34#8, 0x35#8, 0x36#8, 0x37#8, 0x38#8, 0x39#8] = 0xCBF43926#32

/-- 95_test_vectors.md 2.7, residue: feeding any data followed by its CRC, stored little-endian, leaves one
constant. -/
def Obligations.CrcResidueIsConstant : Prop :=
  ∀ ds : List Byte,
    crcFeed 0xFFFFFFFF#32 (ds ++ (List.range 4).map fun k => (crc32 ds).extractLsb' (8 * k) 8) = 0xDEBB20E3#32

/-- 41_crc_validator.md R130, the CRC behind it: two byte sequences that differ in one byte have different
digests. -/
def Obligations.CrcDetectsOneChangedByte : Prop :=
  ∀ (pre post : List Byte) (d e : Byte), d ≠ e → crc32 (pre ++ d :: post) ≠ crc32 (pre ++ e :: post)

/-! ### The crc family -/

/-- 41_crc_validator.md R123: CRC_INIT's micro-step sets CRC_STATE to the seed, and its whole run, decode,
update and finish, also while the device is busy, changes nothing else but STATUS and the sequencer. That the run
is three moves is the model's choice (log 12). -/
def Obligations.CrcInitSetsTheSeed : Prop :=
  ∀ (s : State) (l : Latch),
    (s.seq = .run l .seed →
      exec .crcInit s = .next { s with crcState := 0xFFFFFFFF#32, seq := .run l (.finish .ok) }) ∧
    (s.seq = .run l .decode → decode l.opw = .ok .crcInit →
      play (seqMoves 3) s = .next { s with
        crcState := 0xFFFFFFFF#32
        status := { s.status with busy := false, done := true, err := .ok }
        seq := .idle, raced := [], issued := none })

/-- 41_crc_validator.md R124: CRC_BUF's micro-step for byte i feeds exactly DBUF[b+i], and stops on an undefined
byte. -/
def Obligations.CrcBufFeedsByte : Prop :=
  ∀ (s : State) (l : Latch) (i : Nat), s.seq = .run l (.feed i) → i < l.n.toNat →
    (∀ v, memGet s.dbuf (l.b.toNat + i) = some v →
      exec .crcBuf s = .next { s with
        crcState := crcUpdate s.crcState v
        seq := .run l (if i + 1 < l.n.toNat then .feed (i + 1) else .finish .ok) }) ∧
    (memGet s.dbuf (l.b.toNat + i) = none → exec .crcBuf s = .fault .uninitDbufRead)

/-- 41_crc_validator.md R122, R124: a whole CRC_BUF over defined bytes, with no host write in its range, leaves
CRC_STATE fed with DBUF[b..b+n) in order and changes nothing else but STATUS and the sequencer; the device may
be busy. That the check is one move and the run n + 3 of them is the model's choice (log 12). -/
def Obligations.CrcBufFeedsItsRange : Prop :=
  ∀ (s : State) (l : Latch), s.seq = .run l .decode → decode l.opw = .ok .crcBuf → s.raced = [] →
    l.b.toNat + l.n.toNat ≤ s.cfg.dbufSize → dbufDefined s.dbuf l.b.toNat l.n.toNat = true →
    play (seqMoves (l.n.toNat + 3)) s = .next { s with
      crcState := (dbufBytes s.dbuf l.b.toNat l.n.toNat).foldl crcUpdate s.crcState
      status := { s.status with busy := false, done := true, err := .ok }
      seq := .idle, issued := none }

/-- 41_crc_validator.md R127: a whole VALIDATE_RECORD over a defined image, with no host write in it. That the run is four
moves, the computation and its writes one of them, is the model's choice (log 11, log 12). -/
def Obligations.ValidateRecordJudgesTheImage : Prop :=
  ∀ (s : State) (l : Latch), s.seq = .run l .decode → decode l.opw = .ok .validateRecord → s.raced = [] →
    l.b.toNat + 64 ≤ s.cfg.dbufSize → dbufDefined s.dbuf l.b.toNat 64 = true →
    play (seqMoves 4) s = .next { s with
      valCalc := crc32 (dbufBytes s.dbuf l.b.toNat 60)
      valStored := le32At s.dbuf (l.b.toNat + 60)
      status := { s.status with
        busy := false, done := true
        magicOk := le32At s.dbuf l.b.toNat == 0xFEEDDA7A#32
        versionOk := false
        crcOk := crc32 (dbufBytes s.dbuf l.b.toNat 60) == le32At s.dbuf (l.b.toNat + 60)
        err := if le32At s.dbuf l.b.toNat = 0xFEEDDA7A#32 ∧
            crc32 (dbufBytes s.dbuf l.b.toNat 60) = le32At s.dbuf (l.b.toNat + 60) then .ok else .errCrc }
      seq := .idle, issued := none }

/-- 41_crc_validator.md R128: a whole VALIDATE_HEADER over a defined image, with no host write in it. That the run is four
moves, the computation and its writes one of them, is the model's choice (log 11, log 12). -/
def Obligations.ValidateHeaderJudgesTheImage : Prop :=
  ∀ (s : State) (l : Latch), s.seq = .run l .decode → decode l.opw = .ok .validateHeader → s.raced = [] →
    l.b.toNat + 44 ≤ s.cfg.dbufSize → dbufDefined s.dbuf l.b.toNat 44 = true →
    play (seqMoves 4) s = .next { s with
      valCalc := crc32 (dbufBytes s.dbuf l.b.toNat 40)
      valStored := le32At s.dbuf (l.b.toNat + 40)
      status := { s.status with
        busy := false, done := true
        magicOk := le32At s.dbuf l.b.toNat == 0xF1A5DEAD#32
        versionOk := le32At s.dbuf (l.b.toNat + 4) == 1#32
        crcOk := crc32 (dbufBytes s.dbuf l.b.toNat 40) == le32At s.dbuf (l.b.toNat + 40)
        err := if le32At s.dbuf l.b.toNat = 0xF1A5DEAD#32 ∧ le32At s.dbuf (l.b.toNat + 4) = 1#32 ∧
            crc32 (dbufBytes s.dbuf l.b.toNat 40) = le32At s.dbuf (l.b.toNat + 40) then .ok else .errCrc }
      seq := .idle, issued := none }

/-- 41_crc_validator.md R126, R127, R128: the judging micro-step of each validation on its own image: VAL_CALC,
VAL_STORED, the three result bits and the code are those of the image, and an undefined byte of it is a model fault.
That one micro-step computes and writes them all, before `finish`, is the model's choice (log 11). -/
def Obligations.ValidationMicroStep : Prop :=
  ∀ (s : State) (l : Latch), ∀ p ∈ [(Instr.validateRecord, Image.record), (.validateHeader, .header)],
    s.seq = .run l (.judge p.2) →
      (dbufDefined s.dbuf l.b.toNat (imageSize p.2) = true →
        exec p.1 s = .next { s with
          valCalc := crc32 (dbufBytes s.dbuf l.b.toNat (imageCrcLen p.2))
          valStored := le32At s.dbuf (l.b.toNat + imageCrcLen p.2)
          status := { s.status with
            magicOk := le32At s.dbuf l.b.toNat == imageMagic p.2
            versionOk := imageVersionOk p.2 s.dbuf l.b.toNat
            crcOk := crc32 (dbufBytes s.dbuf l.b.toNat (imageCrcLen p.2)) ==
              le32At s.dbuf (l.b.toNat + imageCrcLen p.2) }
          seq := .run l (.finish (if imageValid p.2 s.dbuf l.b.toNat = true then .ok else .errCrc)) }) ∧
      (dbufDefined s.dbuf l.b.toNat (imageSize p.2) = false → exec p.1 s = .fault .uninitDbufRead) ∧
      (imageVersionOk p.2 s.dbuf l.b.toNat = true ↔ p.2 = .header ∧ le32At s.dbuf (l.b.toNat + 4) = 1#32) ∧
      (imageValid p.2 s.dbuf l.b.toNat = true ↔
        le32At s.dbuf l.b.toNat = (match p.2 with
          | .record => 0xFEEDDA7A#32
          | .header => 0xF1A5DEAD#32) ∧
        (p.2 = .header → le32At s.dbuf (l.b.toNat + 4) = 1#32) ∧
        crc32 (dbufBytes s.dbuf l.b.toNat (imageCrcLen p.2)) = le32At s.dbuf (l.b.toNat + imageCrcLen p.2))

/-- 41_crc_validator.md R130: flipping one bit of a valid record image in DBUF, in its first 60 bytes or in its
stored CRC, makes VALIDATE_RECORD answer CRC_OK = 0 and ERR_CRC, in its judging micro-step (log 11). -/
def Obligations.OneFlippedBitInvalidatesTheRecord : Prop :=
  ∀ (s : State) (l : Latch) (k j : Nat), s.seq = .run l (.judge .record) →
    dbufDefined s.dbuf l.b.toNat 64 = true → imageValid .record s.dbuf l.b.toNat = true → k < 64 → j < 8 →
    ∃ t, exec .validateRecord { s with
        dbuf := memSet s.dbuf (l.b.toNat + k)
          (dbufByte s.dbuf (l.b.toNat + k) ^^^ BitVec.twoPow 8 j) } = .next t ∧
      t.status.crcOk = false ∧ t.seq = .run l (.finish .errCrc)

/-! ### The control family -/

/-- 40_flash_controller.md R107: NOP finishes OK; its whole run changes STATUS and the sequencer only. That the decode
step and `finish` are two moves is the model's choice (log 12). -/
def Obligations.NopFinishesOk : Prop :=
  ∀ (s : State) (l : Latch),
    (s.seq = .run l (.finish .ok) →
      exec .nop s = .next { s with
        status := { s.status with busy := false, done := true, err := .ok }
        seq := .idle, raced := [], issued := none }) ∧
    (s.seq = .run l .decode → decode l.opw = .ok .nop →
      play (seqMoves 2) s = .next { s with
        status := { s.status with busy := false, done := true, err := .ok }
        seq := .idle, raced := [], issued := none })

/-! ### The flash family -/

/-- 60_exceptions.md R134: the parameter check of every command that has one leads to ERR_PARAM exactly under
the rule's conditions, with the DBUF_SIZE of 4096 bytes the rule names, and changes nothing but the phase; and a whole
run under one of them, with no host write in the command's range, ends with ERR = ERR_PARAM in STATUS and changes
nothing else but STATUS and the sequencer. That all checks of a command are one micro-step, and the run three moves, is
the model's choice (log 12). -/
def Obligations.ParameterChecksAreExact : Prop :=
  ∀ (i : Instr) (s : State) (l : Latch) (bad : Prop), s.cfg.dbufSize = 4096 →
    (bad ↔ match i with
      | .read => 4096 < l.b.toNat + l.n.toNat ∨ 2097152 < l.a.toNat + l.n.toNat
      | .progPage => 4096 < l.b.toNat + l.n.toNat ∨ 2097152 < l.a.toNat + l.n.toNat ∨
          256 < l.a.toNat % 256 + l.n.toNat
      | .write => 4096 < l.b.toNat + l.n.toNat ∨ 2097152 < l.a.toNat + l.n.toNat
      | .eraseSector => 2097152 ≤ l.a.toNat
      | .eraseBlock => 2097152 ≤ l.a.toNat
      | .crcBuf => 4096 < l.b.toNat + l.n.toNat
      | .validateRecord => 4096 < l.b.toNat + 64
      | .validateHeader => 4096 < l.b.toNat + 44
      | .nop => False
      | .eraseChip => False
      | .readId => False
      | .crcInit => False) →
    (s.seq = .run l .check →
      ∃ p, exec i s = .next { s with seq := .run l p } ∧ (p = .finish .errParam ↔ bad)) ∧
    (s.seq = .run l .decode → decode l.opw = .ok i → s.raced = [] → bad →
      play (seqMoves 3) s = .next { s with
        status := { s.status with busy := false, done := true, err := .errParam }
        seq := .idle, issued := none })

/-- 40_flash_controller.md R106: READ, PROG_PAGE, WRITE and CRC_BUF of zero bytes whose bound checks pass finish
OK with no SPI traffic, and change nothing but STATUS and the sequencer. That the run is three moves is the model's
choice (log 12). -/
def Obligations.ZeroLengthFinishesOk : Prop :=
  ∀ (s : State) (l : Latch) (i : Instr), i ∈ [Instr.read, .progPage, .write, .crcBuf] →
    s.seq = .run l .decode → decode l.opw = .ok i → s.raced = [] → l.n = 0 → l.b.toNat ≤ s.cfg.dbufSize →
    (i ≠ .crcBuf → l.a.toNat ≤ 2097152) →
    play (seqMoves 3) s = .next { s with
      status := { s.status with busy := false, done := true, err := .ok }
      seq := .idle, issued := none }

/-- 40_flash_controller.md R110: the chunk split: its recursion, each chunk inside one page and 1 to 256 bytes
long, the chunks covering `[a, a+n)` and DBUF `[b, b+n)` in ascending order without overlap, and their number. -/
def Obligations.ChunksSplitAtPageEnds : Prop :=
  ∀ a b n : Nat,
    (chunks a b n = if n = 0 then [] else
      { addr := a, boff := b, len := min n (256 - a % 256) } ::
        chunks (a + min n (256 - a % 256)) (b + min n (256 - a % 256)) (n - min n (256 - a % 256))) ∧
    (∀ c ∈ chunks a b n, 1 ≤ c.len ∧ c.len ≤ 256 ∧ c.addr % 256 + c.len ≤ 256) ∧
    (chunks a b n).flatMap (fun c => List.range' c.addr c.len) = List.range' a n ∧
    (chunks a b n).flatMap (fun c => List.range' c.boff c.len) = List.range' b n ∧
    (0 < n → (chunks a b n).length = (a % 256 + n + 255) / 256)

/-- 40_flash_controller.md R111: WRITE with the operands of a valid PROG_PAGE has PROG_PAGE's micro-program. -/
def Obligations.WriteOfOnePageIsProgPage : Prop :=
  ∀ (s : State) (l : Latch), s.seq = .run l .check → l.a.toNat % 256 + l.n.toNat ≤ 256 →
    exec .write s = exec .progPage s

/-- 40_flash_controller.md R102: a transaction is one frame on the wire and never changes the array itself. It
fails exactly when SPI_FAULT_DRAW is true and its draw says so; otherwise the device takes the frame. A failed
status read, read or identification leaves the device alone; a failed write enable changes at most WEL; a failed
program or erase frame leaves a pending operation of a busy device alone, and an idle device with nothing pending or
with a Draws operation over the frame's range. -/
def Obligations.TransactionOutcomes : Prop :=
  ∀ (s : State) (f : Frame),
    (xfer f s).2.spiLog = f :: s.spiLog ∧ (xfer f s).2.dev.flash = s.dev.flash ∧
    xfer f s =
      (if s.cfg.spiFaultDraw = true ∧ Config.freeBool s.draws = true then
        (none, transportFailure f { s with spiLog := f :: s.spiLog, draws := s.draws + 1 })
      else
        (some (deviceTakes f { s with spiLog := f :: s.spiLog, draws := s.draws + 1 }).1,
          (deviceTakes f { s with spiLog := f :: s.spiLog, draws := s.draws + 1 }).2)) ∧
    (frameOp s.cfg f = none → f ≠ .writeEnable → transportFailure f s = s) ∧
    (transportFailure .writeEnable s).dev = { s.dev with wel := (transportFailure .writeEnable s).dev.wel } ∧
    (∀ op, frameOp s.cfg f = some op →
      (transportFailure f s).dev = { s.dev with
        wel := (transportFailure f s).dev.wel, pending := (transportFailure f s).dev.pending } ∧
      (s.dev.pending ≠ none → transportFailure f s = s) ∧
      (s.dev.pending = none → (transportFailure f s).dev.pending = none ∨
        (transportFailure f s).dev.pending = some (.draws (opRange op).1 (opRange op).2)))

/-- 20_memory.md R66, R71, R72: what a fitted device does with a frame: a read of an idle device returns the
array's bytes; a program or an erase is accepted exactly when the device is idle with WEL set; write enable sets
WEL on an idle device only. -/
def Obligations.DeviceTakesFrames : Prop :=
  ∀ (s : State) (id : Word24), configWellFormed s.cfg = true → s.dev.fitted = some id →
    (∀ (a : Word) (n : Nat), a.toNat + n ≤ 2097152 → s.dev.pending = none →
      deviceTakes (.read a n) s = ((List.range n).map fun i => flashRead s.dev.flash (a.toNat + i), s)) ∧
    (∀ f op, frameOp s.cfg f = some op →
      (deviceTakes f s).2 =
        if s.dev.pending = none ∧ s.dev.wel = true then { s with dev := { s.dev with pending := some op } }
        else s) ∧
    (deviceTakes .writeEnable s).2 =
      if s.dev.pending = none then { s with dev := { s.dev with wel := true } } else s

/-- 20_memory.md R67, R68, R69, R71, R74: the completion step of a pending operation. On an unprotected device it has
its effect: an erase sets its range to 0xFF, a program of an erased range stores its data, any other program and a
Draws operation leave their range as draws, every other byte of the array is as before. On a protected device a draw
decides between that effect and none (log 7). Either way nothing is pending then and WEL is clear. -/
def Obligations.CompletionStepEffects : Prop :=
  ∀ (s : State) (op : DevOp), s.dev.pending = some op → opOk op →
    ∃ t, moveStep .device s = .next t ∧
      t = { s with draws := t.draws, dev := { s.dev with flash := t.dev.flash, pending := none, wel := false } } ∧
      (devUnprotected s.dev = false → Config.freeBool s.draws = true → t.dev.flash = s.dev.flash) ∧
      ((devUnprotected s.dev = true ∨ Config.freeBool s.draws = false) →
        (∀ x, (x < (opRange op).1 ∨ (opRange op).2 ≤ x) → flashRead t.dev.flash x = flashRead s.dev.flash x) ∧
        ∀ x, (opRange op).1 ≤ x → x < (opRange op).2 → flashRead t.dev.flash x =
          match op with
          | .erase _ _ => 0xFF#8
          | .draws lo _ => Config.freeByte (s.draws + (if devUnprotected s.dev = true then 0 else 1) + (x - lo))
          | .program a d =>
            if ∀ j < d.length, flashRead s.dev.flash (a + j) = 0xFF#8 then d.getD (x - a) 0
            else Config.freeByte (s.draws + (if devUnprotected s.dev = true then 0 else 1) + (x - a)))

/-- 40_flash_controller.md R103, R104, R105, R115: one iteration of `DevReady`, in the pre-poll of a flash command and
in the poll after each program or erase frame. A failed transaction leads to ERR_SPI. With a device fitted, a ready
device leads to the job, or to the next `Mutate` or `finish(OK)`; a busy device to ERR_TIMEOUT when the timeout is
drawn, and to another poll otherwise. With no device present the status byte is a draw, whose bit 0 decides the same
(log 6). Nothing pending is cancelled. -/
def Obligations.PollOutcomes : Prop :=
  ∀ (i : Instr) (s : State) (l : Latch) (tmo : Budget) (job : Job) (rest : List MutOp),
    ∀ p ∈ [(Phase.prePoll tmo job, afterPrePoll tmo job),
        (.postPoll tmo rest, match rest with
          | [] => .finish .ok
          | op :: ops => .writeEnable tmo op ops)],
    s.seq = .run l p.1 →
    (s.dev.fitted ≠ none →
      exec i s = .next { s with
        draws := s.draws + (if ¬ transactionFails s ∧ s.dev.pending ≠ none then 2 else 1)
        spiLog := .readStatus :: s.spiLog
        seq := .run l
          (if transactionFails s then .finish .errSpi
          else if s.dev.pending = none then p.2
          else if s.cfg.timeoutDraw = true ∧ Config.freeBool (s.draws + 1) = true then .finish .errTimeout
          else p.1) }) ∧
    (s.dev.fitted = none →
      exec i s = .next { s with
        draws := s.draws + (if transactionFails s then 1
          else if (Config.freeByte (s.draws + 1)).getLsbD 0 = false then 2 else 3)
        spiLog := .readStatus :: s.spiLog
        seq := .run l
          (if transactionFails s then .finish .errSpi
          else if (Config.freeByte (s.draws + 1)).getLsbD 0 = false then p.2
          else if s.cfg.timeoutDraw = true ∧ Config.freeBool (s.draws + 2) = true then .finish .errTimeout
          else p.1) })

/-- 40_flash_controller.md R102, R105, R109, R111: the `Mutate` of PROG_PAGE and WRITE on an idle fitted device, for
every outcome of its transactions. The write-enable transaction sets WEL; the frame then makes the program of the
chunk's DBUF bytes the pending operation, where no host write has raced (RacedResultsAreDraws says what it does where
one has). A failed write enable leaves WEL a draw, a failed frame leaves WEL a draw and nothing or draws over the chunk
pending, and either leads to finish(ERR_SPI). An undefined byte of the chunk is a model fault, raced or not. -/
def Obligations.ProgramFrameIsAccepted : Prop :=
  ∀ (s : State) (l : Latch) (tmo : Budget) (c : Chunk) (rest : List MutOp), ∀ i ∈ [Instr.progPage, Instr.write],
    configWellFormed s.cfg = true → deviceReady s → c.addr < 2097152 →
    (s.seq = .run l (.writeEnable tmo (.program c) rest) →
      exec i s = .next (if transactionFails s then
        { s with
          dev := { s.dev with wel := Config.freeBool (s.draws + 1) }, draws := s.draws + 2
          spiLog := .writeEnable :: s.spiLog, seq := .run l (.finish .errSpi) }
      else
        { s with
          dev := { s.dev with wel := true }, draws := s.draws + 1
          spiLog := .writeEnable :: s.spiLog, seq := .run l (.frame tmo (.program c) rest) })) ∧
    (s.seq = .run l (.frame tmo (.program c) rest) → s.dev.wel = true →
      (dbufDefined s.dbuf c.boff c.len = true → s.raced = [] →
        exec i s = .next (if transactionFails s then
          { s with
            dev := { s.dev with
              pending := if Config.freeBool (s.draws + 1) then some (.draws c.addr (c.addr + c.len)) else none
              wel := Config.freeBool (s.draws + 2) }
            draws := s.draws + 3
            spiLog := .pageProgram (BitVec.ofNat 32 c.addr) (dbufBytes s.dbuf c.boff c.len) :: s.spiLog
            seq := .run l (.finish .errSpi) }
        else
          { s with
            dev := { s.dev with pending := some (.program c.addr (dbufBytes s.dbuf c.boff c.len)) }
            draws := s.draws + 1, issued := some c
            spiLog := .pageProgram (BitVec.ofNat 32 c.addr) (dbufBytes s.dbuf c.boff c.len) :: s.spiLog
            seq := .run l (.postPoll tmo rest) })) ∧
      (dbufDefined s.dbuf c.boff c.len = false → exec i s = .fault .uninitDbufRead))

/-- 40_flash_controller.md R102, R105, R112-R114, 20_memory.md R67: the `Mutate` of the three erase commands on an idle
fitted device, for every outcome of its transactions: the write-enable transaction sets WEL; the frame then makes the
erase of the unit that holds the base the pending operation. A failed write enable leaves WEL a draw, a failed frame
leaves WEL a draw and nothing or draws over the unit pending, and either leads to finish(ERR_SPI). -/
def Obligations.EraseFrameIsAccepted : Prop :=
  ∀ (s : State) (l : Latch) (tmo : Budget) (base : Nat) (rest : List MutOp),
    ∀ p ∈ [(Instr.eraseSector, EraseUnit.sector), (.eraseBlock, .block), (.eraseChip, .chip)],
    configWellFormed s.cfg = true → deviceReady s → base < 2097152 →
    (s.seq = .run l (.writeEnable tmo (.erase p.2 base) rest) →
      exec p.1 s = .next (if transactionFails s then
        { s with
          dev := { s.dev with wel := Config.freeBool (s.draws + 1) }, draws := s.draws + 2
          spiLog := .writeEnable :: s.spiLog, seq := .run l (.finish .errSpi) }
      else
        { s with
          dev := { s.dev with wel := true }, draws := s.draws + 1
          spiLog := .writeEnable :: s.spiLog, seq := .run l (.frame tmo (.erase p.2 base) rest) })) ∧
    (s.seq = .run l (.frame tmo (.erase p.2 base) rest) → s.dev.wel = true →
      ∃ lo hi f, (lo, hi, f) = (match p.2 with
          | .sector => (base / 4096 * 4096, base / 4096 * 4096 + 4096, Frame.sectorErase (BitVec.ofNat 32 base))
          | .block => (base / s.cfg.blockSize.toNat * s.cfg.blockSize.toNat,
              base / s.cfg.blockSize.toNat * s.cfg.blockSize.toNat + s.cfg.blockSize.toNat,
              .blockErase (BitVec.ofNat 32 base))
          | .chip => (0, 2097152, .chipErase)) ∧
        exec p.1 s = .next (if transactionFails s then
          { s with
            dev := { s.dev with
              pending := if Config.freeBool (s.draws + 1) then some (.draws lo hi) else none
              wel := Config.freeBool (s.draws + 2) }
            draws := s.draws + 3, spiLog := f :: s.spiLog, seq := .run l (.finish .errSpi) }
        else
          { s with
            dev := { s.dev with pending := some (.erase lo hi) }
            draws := s.draws + 1, issued := none, spiLog := f :: s.spiLog
            seq := .run l (.postPoll tmo rest) }))

/-- 40_flash_controller.md R108: READ's transaction on an idle fitted device, for every outcome of its draw, and
its write of DBUF as one micro-step: on a failed transaction the bytes are draws and the code is ERR_SPI. -/
def Obligations.ReadTransfersAndDeposits : Prop :=
  ∀ (s : State) (l : Latch) (a n b : Nat), configWellFormed s.cfg = true → a + n ≤ 2097152 → deviceReady s →
    (s.seq = .run l (.receive a n b) → ∃ d,
      exec .read s = .next { s with
        draws := s.draws + d
        spiLog := .read (BitVec.ofNat 32 a) n :: s.spiLog
        seq := .run l (if transactionFails s then
            .deposit b ((List.range n).map fun i => Config.freeByte (s.draws + 1 + i)) .errSpi
          else .deposit b ((List.range n).map fun i => flashRead s.dev.flash (a + i)) .ok) }) ∧
    (∀ bytes code, s.seq = .run l (.deposit b bytes code) → ∃ m,
      exec .read s = .next { s with dbuf := m, seq := .run l (.finish code) } ∧
      (∀ x, (x < b ∨ b + bytes.length ≤ x) → memGet m x = memGet s.dbuf x) ∧
      (∀ i (h : i < bytes.length), memGet m (b + i) = some bytes[i]))

/-- 40_flash_controller.md R108: a whole READ over a reliable bus, on an idle fitted device, with no host write in
its destination: DBUF[b..b+n) becomes Flash[a..a+n), ERR is OK, and the frames are the status read and the
read. That the run is six moves is the model's choice (log 12). -/
def Obligations.ReadCopiesFlashToDbuf : Prop :=
  ∀ (s : State) (l : Latch), s.seq = .run l .decode → decode l.opw = .ok .read → s.raced = [] →
    configWellFormed s.cfg = true → s.cfg.spiFaultDraw = false → deviceReady s → 0 < l.n.toNat →
    l.b.toNat + l.n.toNat ≤ s.cfg.dbufSize →
    l.a.toNat + l.n.toNat ≤ 2097152 →
    ∃ m, play (seqMoves 6) s = .next { s with
        dbuf := m
        status := { s.status with busy := false, done := true, err := .ok }
        seq := .idle, issued := none, draws := s.draws + 2
        spiLog := .read l.a l.n.toNat :: .readStatus :: s.spiLog } ∧
      (∀ i < l.n.toNat, memGet m (l.b.toNat + i) = some (flashRead s.dev.flash (l.a.toNat + i))) ∧
      (∀ x, (x < l.b.toNat ∨ l.b.toNat + l.n.toNat ≤ x) → memGet m x = memGet s.dbuf x)

/-- 40_flash_controller.md R109, 20_memory.md R68, R69, R70: a whole PROG_PAGE over a reliable bus, on an idle,
fitted, unprotected device, with defined DBUF bytes and no host write in its range, the device completing before
the poll: ERR is OK whether or not the range was erased; an erased range takes the DBUF bytes, any other becomes
draws; every other flash byte is as before. That the run is seven moves of the sequencer is the model's choice
(log 12). -/
def Obligations.ProgPageProgramsItsRange : Prop :=
  ∀ (s : State) (l : Latch), s.seq = .run l .decode → decode l.opw = .ok .progPage → s.raced = [] →
    configWellFormed s.cfg = true →
    s.cfg.spiFaultDraw = false → deviceReady s → devUnprotected s.dev = true → 0 < l.n.toNat →
    l.b.toNat + l.n.toNat ≤ s.cfg.dbufSize → l.a.toNat + l.n.toNat ≤ 2097152 → l.a.toNat % 256 + l.n.toNat ≤ 256 →
    dbufDefined s.dbuf l.b.toNat l.n.toNat = true →
    ∃ t, play (seqMoves 5 ++ [.device] ++ seqMoves 2) s = .next t ∧
      t = { s with
        status := { s.status with busy := false, done := true, err := .ok }
        seq := .idle, issued := none, draws := t.draws
        dev := { s.dev with flash := t.dev.flash, wel := false }
        spiLog := [.readStatus, .pageProgram l.a (dbufBytes s.dbuf l.b.toNat l.n.toNat),
          .writeEnable, .readStatus] ++ s.spiLog } ∧
      (∀ x, (x < l.a.toNat ∨ l.a.toNat + l.n.toNat ≤ x) → flashRead t.dev.flash x = flashRead s.dev.flash x) ∧
      (∀ i < l.n.toNat, flashRead t.dev.flash (l.a.toNat + i) =
        if ∀ j < l.n.toNat, flashRead s.dev.flash (l.a.toNat + j) = 0xFF#8 then
          dbufByte s.dbuf (l.b.toNat + i)
        else Config.freeByte (s.draws + 3 + i))

/-- 40_flash_controller.md R111, R110: a whole WRITE over a reliable bus, on an idle, fitted, unprotected device
with an erased destination, defined DBUF bytes and no host write in its range, the device completing each chunk
before its poll: Flash[a..a+n) becomes DBUF[b..b+n), every other flash byte is as before, and the frames are one
status read, then write enable, program and status read for each chunk. The number of moves is the model's choice
(log 12). A chunk over unerased bytes is in CompletionStepEffects, an error in a chunk in ProgramFrameIsAccepted and
PollOutcomes. -/
def Obligations.WriteProgramsItsRange : Prop :=
  ∀ (s : State) (l : Latch), s.seq = .run l .decode → decode l.opw = .ok .write → s.raced = [] →
    configWellFormed s.cfg = true →
    s.cfg.spiFaultDraw = false → deviceReady s → devUnprotected s.dev = true → 0 < l.n.toNat →
    l.b.toNat + l.n.toNat ≤ s.cfg.dbufSize → l.a.toNat + l.n.toNat ≤ 2097152 →
    dbufDefined s.dbuf l.b.toNat l.n.toNat = true →
    (∀ j < l.n.toNat, flashRead s.dev.flash (l.a.toNat + j) = 0xFF#8) →
    ∃ t, play (seqMoves 3 ++
          (chunks l.a.toNat l.b.toNat l.n.toNat).flatMap (fun _ => seqMoves 2 ++ [.device] ++ seqMoves 1) ++
          seqMoves 1) s = .next t ∧
      t = { s with
        status := { s.status with busy := false, done := true, err := .ok }
        seq := .idle, issued := none, draws := t.draws
        dev := { s.dev with flash := t.dev.flash, wel := false }
        spiLog := ((chunks l.a.toNat l.b.toNat l.n.toNat).reverse.flatMap fun c =>
            [.readStatus, .pageProgram (BitVec.ofNat 32 c.addr) (dbufBytes s.dbuf c.boff c.len), .writeEnable])
          ++ .readStatus :: s.spiLog } ∧
      (∀ x, (x < l.a.toNat ∨ l.a.toNat + l.n.toNat ≤ x) → flashRead t.dev.flash x = flashRead s.dev.flash x) ∧
      (∀ i < l.n.toNat, flashRead t.dev.flash (l.a.toNat + i) = dbufByte s.dbuf (l.b.toNat + i))

/-- 40_flash_controller.md R112, 20_memory.md R67: a whole ERASE_SECTOR over a reliable bus, on an idle, fitted,
unprotected device, the device completing before the poll: the 4096 bytes of the sector that holds `a` become
0xFF, every other byte is as before, and the erase frame carries the sector's base. The number of moves is the
model's choice (log 12). -/
def Obligations.EraseSectorErasesItsSector : Prop :=
  ∀ (s : State) (l : Latch), s.seq = .run l .decode → decode l.opw = .ok .eraseSector → s.raced = [] →
    configWellFormed s.cfg = true → s.cfg.spiFaultDraw = false → deviceReady s → devUnprotected s.dev = true → l.a.toNat < 2097152 →
    ∃ m, play (seqMoves 5 ++ [.device] ++ seqMoves 2) s = .next { s with
        status := { s.status with busy := false, done := true, err := .ok }
        seq := .idle, issued := none, draws := s.draws + 4
        dev := { s.dev with flash := m, wel := false }
        spiLog := [.readStatus, .sectorErase (BitVec.ofNat 32 (l.a.toNat / 4096 * 4096)), .writeEnable,
          .readStatus] ++ s.spiLog } ∧
      ∀ x, flashRead m x = if x / 4096 = l.a.toNat / 4096 then 0xFF#8 else flashRead s.dev.flash x

/-- 40_flash_controller.md R113: a whole ERASE_BLOCK, likewise (log 12), for the block of BLOCK_SIZE bytes that holds
`a`; that BLOCK_SIZE is a power of two no larger than the array is the model's reading (log 23). -/
def Obligations.EraseBlockErasesItsBlock : Prop :=
  ∀ (s : State) (l : Latch), s.seq = .run l .decode → decode l.opw = .ok .eraseBlock → s.raced = [] →
    configWellFormed s.cfg = true →
    s.cfg.spiFaultDraw = false → deviceReady s → devUnprotected s.dev = true → l.a.toNat < 2097152 →
    ∃ m, play (seqMoves 5 ++ [.device] ++ seqMoves 2) s = .next { s with
        status := { s.status with busy := false, done := true, err := .ok }
        seq := .idle, issued := none, draws := s.draws + 4
        dev := { s.dev with flash := m, wel := false }
        spiLog := [.readStatus,
          .blockErase (BitVec.ofNat 32 (l.a.toNat / s.cfg.blockSize.toNat * s.cfg.blockSize.toNat)), .writeEnable,
          .readStatus] ++ s.spiLog } ∧
      ∀ x, flashRead m x =
        if x / s.cfg.blockSize.toNat = l.a.toNat / s.cfg.blockSize.toNat then 0xFF#8
        else flashRead s.dev.flash x

/-- 40_flash_controller.md R114: a whole ERASE_CHIP, likewise (log 12): every byte of the array becomes 0xFF, whatever
ADDR, LEN and BOFF hold. -/
def Obligations.EraseChipErasesTheArray : Prop :=
  ∀ (s : State) (l : Latch), s.seq = .run l .decode → decode l.opw = .ok .eraseChip → s.raced = [] →
    s.cfg.spiFaultDraw = false → deviceReady s → devUnprotected s.dev = true →
    ∃ m, play (seqMoves 4 ++ [.device] ++ seqMoves 2) s = .next { s with
        status := { s.status with busy := false, done := true, err := .ok }
        seq := .idle, issued := none, draws := s.draws + 4
        dev := { s.dev with flash := m, wel := false }
        spiLog := [.readStatus, .chipErase, .writeEnable, .readStatus] ++ s.spiLog } ∧
      ∀ x < 2097152, flashRead m x = 0xFF#8

/-- 40_flash_controller.md R115: READ_ID's transaction, for every outcome of its draw: on failure JEDEC_ID is unchanged
and the code is ERR_SPI; otherwise JEDEC_ID takes the three bytes received, and ID_OK and the code say whether they are
the expected ones. The bytes are the identification of a fitted idle device, and draws with no device present. The
whole run over a reliable bus with an idle device fitted, decode, pre-poll, transaction and `finish`, leaves those
values in JEDEC_ID and STATUS and changes nothing else. That JEDEC_ID and ID_OK are written in the transaction's own
micro-step, before `finish`, and that the run is four moves, is the model's choice (log 12). -/
def Obligations.ReadIdReportsTheDevice : Prop :=
  ∀ (s : State) (l : Latch) (id : Word24),
    (s.seq = .run l .identify →
      ((s.dev.fitted = some id ∧ s.dev.pending = none) ∨
        (s.dev.fitted = none ∧
          id = Config.freeByte (s.draws + 1) ++ Config.freeByte (s.draws + 2) ++ Config.freeByte (s.draws + 3))) →
      exec .readId s = .next
        (if transactionFails s then
          { s with draws := s.draws + 1, spiLog := .jedecId :: s.spiLog, seq := .run l (.finish .errSpi) }
        else
          { s with
            draws := s.draws + (if s.dev.fitted = none then 4 else 1), spiLog := .jedecId :: s.spiLog
            jedecId := id.setWidth 32
            status := { s.status with idOk := s.status.idOk || id == s.cfg.expectedJedecId }
            seq := .run l (.finish (if id = s.cfg.expectedJedecId then .ok else .errNodev)) })) ∧
    (s.seq = .run l .decode → decode l.opw = .ok .readId → s.cfg.spiFaultDraw = false →
      s.dev.fitted = some id → s.dev.pending = none →
      play (seqMoves 4) s = .next { s with
        draws := s.draws + 2, spiLog := .jedecId :: .readStatus :: s.spiLog
        jedecId := id.setWidth 32
        status := { s.status with
          busy := false, done := true
          idOk := s.status.idOk || id == s.cfg.expectedJedecId
          err := if id = s.cfg.expectedJedecId then .ok else .errNodev }
        seq := .idle, raced := [], issued := none })

/-! ### Races -/

/-- 70_reset_and_hazards.md R163, the model's reading (log 9, log 10, log 30): while a command runs, an aligned host write of
any width stores its bytes and records those in the command's DBUF range, and changes nothing else but the device and
the draw index; it leaves the state its byte writes would leave, in ascending order. A byte write that meets a
PROG_PAGE or WRITE makes a byte whose program frame has been sent a draw at once, in the pending program's data, or in
the array once its program has completed, and changes nothing else of the device; for any other byte and any other
command the device is as before. A host read of any width returns a draw in each byte that lies in the destination of a
running READ, and the byte held elsewhere, and a byte in the destination never makes it fault. -/
def Obligations.HostAccessesRaceInTheRange : Prop :=
  ∀ (s : State) (x : Nat) (w : Width) (v : Word), statedSizes s.cfg = true → x % widthBytes w = 0 →
    x + widthBytes w ≤ 4096 →
    (∃ t, hostStep (.write (0x1000 + x) w v) s = .next t ∧
      t = { s with dbuf := t.dbuf, raced := t.raced, draws := t.draws, dev := t.dev } ∧
      (∀ y, y ∈ t.raced ↔ y ∈ s.raced ∨ ∃ k < widthBytes w, y = x + k ∧ inBusyRange s y = true) ∧
      (∀ k < widthBytes w, memGet t.dbuf (x + k) = some (v.extractLsb' (8 * k) 8)) ∧
      (∀ y, (y < x ∨ x + widthBytes w ≤ y) → memGet t.dbuf y = memGet s.dbuf y)) ∧
    (w = .half → ∃ t, hostStep (.write (0x1000 + x) .byte v) s = .next t ∧
      hostStep (.write (0x1000 + x) .half v) s = hostStep (.write (0x1000 + x + 1) .byte (v >>> 8)) t) ∧
    (w = .word → ∃ t, hostStep (.write (0x1000 + x) .half v) s = .next t ∧
      hostStep (.write (0x1000 + x) .word v) s = hostStep (.write (0x1000 + x + 2) .half (v >>> 16)) t) ∧
    (w = .byte → ∀ t, hostStep (.write (0x1000 + x) .byte v) s = .next t →
      ((inBusyRange s x = false ∨ programLatch s = none ∨ s.issued = none ∨
          ∃ c, s.issued = some c ∧ c.boff + c.len ≤ x) → t.dev = s.dev ∧ t.draws = s.draws) ∧
      (∀ l c, inBusyRange s x = true → programLatch s = some l → s.issued = some c → x < c.boff + c.len →
        t.draws = s.draws + 1 ∧
        (∀ a d, s.dev.pending = some (.program a d) → c.boff ≤ x →
          t.dev = { s.dev with pending := some (.program a (d.set (x - c.boff) (Config.freeByte s.draws))) }) ∧
        (((∀ a d, s.dev.pending ≠ some (.program a d)) ∨ x < c.boff) →
          t.dev = { s.dev with flash := t.dev.flash } ∧
          ∀ y, flashRead t.dev.flash y =
            if y = (l.a.toNat + (x - l.b.toNat)) % 2097152 then Config.freeByte s.draws
            else flashRead s.dev.flash y))) ∧
    ((∃ k < widthBytes w, inReadDestination s (x + k) = true) →
      (∀ k < widthBytes w, inReadDestination s (x + k) = false → memGet s.dbuf (x + k) ≠ none) →
      ∃ u : Word, hostStep (.read (0x1000 + x) w) s =
          .next { s with readLog := u :: s.readLog, draws := s.draws + widthBytes w } ∧
        u.toNat < 2 ^ (8 * widthBytes w) ∧
        ∀ k < widthBytes w, u.extractLsb' (8 * k) 8 =
          if inReadDestination s (x + k) = true then Config.freeByte (s.draws + k) else dbufByte s.dbuf (x + k))

/-- 70_reset_and_hazards.md R163, the model's reading (log 9, log 10): what a recorded race makes of the results at
`finish`, whatever the code, and in a program frame: draws. A validation that failed its check has no choice between
OK and ERR_CRC, and keeps ERR_PARAM. PROG_PAGE and WRITE on an idle fitted device with WEL set send a frame whose data
are the chunk's DBUF bytes with a draw for each raced one, and make the program of those data the pending operation; a
failed frame, as without a race, leaves WEL a draw and nothing or draws over the chunk pending. The draws of the data
precede those of the transaction (log 3). -/
def Obligations.RacedResultsAreDraws : Prop :=
  ∀ (s : State) (l : Latch), s.raced ≠ [] →
    (∀ c, s.seq = .run l (.finish c) →
      (exec .crcBuf s = .next { finish c s with crcState := Config.freeWord s.draws, draws := s.draws + 1 }) ∧
      (∀ i ∈ [Instr.validateRecord, Instr.validateHeader], ∃ t, exec i s = .next t ∧
        t.valCalc = Config.freeWord s.draws ∧ t.valStored = Config.freeWord (s.draws + 1) ∧
        t.status.magicOk = Config.freeBool (s.draws + 2) ∧ t.status.versionOk = Config.freeBool (s.draws + 3) ∧
        t.status.crcOk = Config.freeBool (s.draws + 4) ∧
        t.status.err = if c = .errParam then .errParam
          else if Config.freeBool (s.draws + 5) then .ok else .errCrc) ∧
      (s.raced.Nodup → ∃ t, exec .read s = .next t ∧ t.status.err = c ∧
        (∀ k (h : k < s.raced.length), memGet t.dbuf s.raced[k] = some (Config.freeByte (s.draws + k))) ∧
        ∀ x, x ∉ s.raced → memGet t.dbuf x = memGet s.dbuf x)) ∧
    (∀ (tmo : Budget) (ch : Chunk) (rest : List MutOp), ∀ i ∈ [Instr.progPage, Instr.write],
      configWellFormed s.cfg = true → deviceReady s → s.dev.wel = true → ch.addr < 2097152 →
      s.seq = .run l (.frame tmo (.program ch) rest) → dbufDefined s.dbuf ch.boff ch.len = true →
      exec i s = .next
        (if s.cfg.spiFaultDraw = true ∧ Config.freeBool (s.draws + ch.len) = true then
          { s with
            dev := { s.dev with
              pending :=
                if Config.freeBool (s.draws + ch.len + 1) then some (.draws ch.addr (ch.addr + ch.len)) else none
              wel := Config.freeBool (s.draws + ch.len + 2) }
            draws := s.draws + ch.len + 3
            spiLog := .pageProgram (BitVec.ofNat 32 ch.addr) (chunkData ch s) :: s.spiLog
            seq := .run l (.finish .errSpi) }
        else
          { s with
            dev := { s.dev with pending := some (.program ch.addr (chunkData ch s)) }
            draws := s.draws + ch.len + 1, issued := some ch
            spiLog := .pageProgram (BitVec.ofNat 32 ch.addr) (chunkData ch s) :: s.spiLog
            seq := .run l (.postPoll tmo rest) })) ∧
    (∀ (ch : Chunk), (chunkData ch s).length = ch.len ∧ ∀ k < ch.len, (chunkData ch s)[k]? =
      some (if ch.boff + k ∈ s.raced then Config.freeByte (s.draws + k) else dbufByte s.dbuf (ch.boff + k)))

/-! ### Reset -/

/-- 10_state.md R25, R53, 70_reset_and_hazards.md R154-R156: a reset sets every register to its reset value, makes
every DBUF byte undefined and the sequencer Idle, ends the pending operation, leaves every byte of its range a draw
and every other flash byte as before. The rest of the frame is the model's reading (log 24): a reset keeps the
device's identification and protection bits, the configuration, the agenda and the model's two lists, which the rules
do not name. -/
def Obligations.ResetStepEffects : Prop :=
  ∀ (s : State), (∀ op, s.dev.pending = some op → opOk op) →
    ∃ t, moveStep .reset s = .next t ∧
      t = { s with
        cmd := 0#32, addr := 0#32, len := 0#32, boff := 0#32, crcState := 0xFFFFFFFF#32
        valCalc := 0#32, valStored := 0#32, jedecId := 0#32
        status := t.status, dbuf := t.dbuf, seq := .idle, raced := [], issued := none, draws := t.draws
        dev := { s.dev with flash := t.dev.flash, pending := none, wel := false } } ∧
      statusWord t.status = 0#32 ∧ (∀ x, memGet t.dbuf x = none) ∧
      (s.dev.pending = none → t.dev.flash = s.dev.flash) ∧
      (∀ op, s.dev.pending = some op →
        (∀ x, (x < (opRange op).1 ∨ (opRange op).2 ≤ x) →
          flashRead t.dev.flash x = flashRead s.dev.flash x) ∧
        (∀ x, (opRange op).1 ≤ x → x < (opRange op).2 →
          flashRead t.dev.flash x = Config.freeByte (s.draws + (x - (opRange op).1))))

/-- 10_state.md R25, R53: what a host read of each of the sixteen registers returns right after reset, and the state
no register shows: the sequencer Idle, nothing pending, WEL clear, every DBUF byte undefined. BLOCK_SIZE reads
0x00010000 and DBUF_SIZE 0x1000, the defaults of the configuration that State.reset carries (log 23, log 28). -/
def Obligations.ResetRegistersRead : Prop :=
  (∀ p ∈ ([(0x000, 0x00000000#32), (0x004, 0x00000000#32), (0x008, 0x00000000#32), (0x00C, 0x00000000#32),
      (0x010, 0x00000000#32), (0x014, 0xFFFFFFFF#32), (0x018, 0x00000000#32), (0x01C, 0x00000000#32),
      (0x020, 0x00000000#32), (0x024, 0x00000000#32), (0x028, 0x00000000#32), (0x02C, 0x00200000#32),
      (0x030, 0x00001000#32), (0x034, 0x00000100#32), (0x038, 0x00010000#32), (0x03C, 0x00001000#32)] :
      List (Nat × Word)),
    hostStep (.read p.1 .word) State.reset = .next { State.reset with readLog := [p.2] }) ∧
  State.reset.seq = .idle ∧ State.reset.dev.pending = none ∧ State.reset.dev.wel = false ∧
    ∀ x, memGet State.reset.dbuf x = none

/-! ### Invariants, frames and progress over every step -/

/-- The invariant holds right after reset. -/
def Obligations.ResetMeetsInvariant : Prop := Inv State.reset

/-- 70_reset_and_hazards.md R160: a launch state, whatever STATUS, DBUF, array and configuration its claim states, with
the reserved bits of JEDEC_ID clear and no race recorded, meets the invariant. -/
def Obligations.LaunchStateMeetsInvariant : Prop :=
  ∀ (p : Launch) (s : State), launchOk p s → s.jedecId.extractLsb' 24 8 = 0#8 → s.raced = [] → Inv s

/-- Every step of every agent keeps the invariant (10_state.md R29, R31, R42, R43, R45, R46; 20_memory.md R68). -/
def Obligations.EveryStepKeepsInvariant : Prop := ∀ s t : State, Inv s → step s = .next t → Inv t

/-- 10_state.md R38, 70_reset_and_hazards.md R163: the flash array changes only at a completion step of the device, at
a reset, or at a host write that races with a running PROG_PAGE or WRITE; that race's draw falls in the host's step by
the model's reading (log 9), and changes only the bytes that stand for the written DBUF bytes. -/
def Obligations.FlashChangesOnlyByDeviceResetOrRace : Prop :=
  ∀ (s t : State) (m : Move), m ≠ .device → m ≠ .reset → moveStep m s = .next t →
    ((programLatch s = none ∨ s.issued = none ∨ ∀ off w v, m ≠ .host (.write off w v)) →
      t.dev.flash = s.dev.flash) ∧
    (∀ a, flashRead t.dev.flash a ≠ flashRead s.dev.flash a →
      ∃ l off w v k, programLatch s = some l ∧ m = .host (.write off w v) ∧ k < widthBytes w ∧
        inBusyRange s (off - 0x1000 + k) = true ∧
        a = (l.a.toNat + (off - 0x1000 + k - l.b.toNat)) % 2097152)

/-- 10_state.md R33, R30: no micro-step of any command writes CMD, ADDR, LEN, BOFF or OVR, the configuration, the
agenda or the host's log. -/
def Obligations.CommandsNeverWriteOperands : Prop :=
  ∀ (i : Instr) (s t : State), exec i s = .next t →
    t.cmd = s.cmd ∧ t.addr = s.addr ∧ t.len = s.len ∧ t.boff = s.boff ∧ t.status.ovr = s.status.ovr ∧
      t.cfg = s.cfg ∧ t.agenda = s.agenda ∧ t.readLog = s.readLog

/-- 10_state.md R35, R37, R34, R32: in a state that meets the invariant, the micro-steps of a command change
CRC_STATE only for CRC_INIT and CRC_BUF, VAL_CALC and VAL_STORED only for the validations, JEDEC_ID and ID_OK only
for READ_ID, and DBUF only for READ; CRC and validation commands leave the device and the SPI port alone. -/
def Obligations.ResultsWrittenOnlyByTheirCommands : Prop :=
  ∀ (i : Instr) (s t : State) (l : Latch) (p : Phase), Inv s → s.seq = .run l p → decode l.opw = .ok i →
    exec i s = .next t →
    (i ≠ .crcInit → i ≠ .crcBuf → t.crcState = s.crcState) ∧
    (i ≠ .validateRecord → i ≠ .validateHeader →
      t.valCalc = s.valCalc ∧ t.valStored = s.valStored ∧ t.status.magicOk = s.status.magicOk ∧
        t.status.versionOk = s.status.versionOk ∧ t.status.crcOk = s.status.crcOk) ∧
    (i ≠ .readId → t.jedecId = s.jedecId ∧ t.status.idOk = s.status.idOk) ∧
    (i ≠ .read → t.dbuf = s.dbuf) ∧
    (i ∈ [Instr.nop, .crcInit, .crcBuf, .validateRecord, .validateHeader] →
      t.dev = s.dev ∧ t.spiLog = s.spiLog)

/-- 70_reset_and_hazards.md R171, the default schedule (log 1): from every state that meets the invariant, with the
agenda played out, a fitted device and every DBUF byte defined, the running command finishes, whatever the draws
of failures and timeouts are. -/
def Obligations.EveryCommandFinishes : Prop :=
  ∀ (s : State), Inv s → s.agenda = [] → s.dev.fitted ≠ none → dbufDefined s.dbuf 0 s.cfg.dbufSize = true →
    ∃ k t, run k s = .next t ∧ t.seq = .idle ∧ t.status.busy = false

/-- 60_exceptions.md R133: in a state that meets the invariant, a command that finishes leaves BUSY = 0, DONE = 1 and
one of the codes the table gives it in ERR; the seven codes have the values of the table. 40_flash_controller.md R100:
`finish(c)` of any command with no host write in its range puts exactly c in ERR, clears BUSY, sets DONE, makes the
sequencer Idle and changes nothing else; that it is a micro-step of its own is the model's choice (log 12). -/
def Obligations.CommandsFinishWithTheirCodes : Prop :=
  (∀ (i : Instr) (s t : State) (l : Latch) (p : Phase), Inv s → s.seq = .run l p → decode l.opw = .ok i →
    exec i s = .next t → t.seq = .idle →
    t.status.busy = false ∧ t.status.done = true ∧
      t.status.err ∈ (match i with
        | .nop => [Code.ok]
        | .read => [.ok, .errParam, .errSpi, .errTimeout]
        | .progPage => [.ok, .errParam, .errSpi, .errTimeout]
        | .write => [.ok, .errParam, .errSpi, .errTimeout]
        | .eraseSector => [.ok, .errParam, .errSpi, .errTimeout]
        | .eraseBlock => [.ok, .errParam, .errSpi, .errTimeout]
        | .eraseChip => [.ok, .errSpi, .errTimeout]
        | .readId => [.ok, .errSpi, .errTimeout, .errNodev]
        | .crcInit => [.ok]
        | .crcBuf => [.ok, .errParam]
        | .validateRecord => [.ok, .errParam, .errCrc]
        | .validateHeader => [.ok, .errParam, .errCrc])) ∧
    (∀ (i : Instr) (s : State) (l : Latch) (c : Code), s.seq = .run l (.finish c) → s.raced = [] →
      exec i s = .next { s with
        status := { s.status with busy := false, done := true, err := c }
        seq := .idle, issued := none }) ∧
    [Code.ok, .errParam, .errSpi, .errTimeout, .errNodev, .errCrc, .errOpcode].map codeValue =
      [0x0#4, 0x1#4, 0x2#4, 0x3#4, 0x4#4, 0x5#4, 0x6#4]
end

