-- ==== Sys2Proof/Laws/Memory.lean ====
section
/-! SUPPORT. The laws of the memories: read after write, a write elsewhere, the canonical form, and the
specification of every derived store (20_memory.md R55-R60, R66-R69). -/

namespace Sys2Proof.Machine

/-! ### Reading after an update -/

theorem memGet_memSet (m : Memory) (a b : Nat) (v : Byte) :
    memGet (memSet m a v) b = if a = b then some v else memGet m b := by
  induction m with
  | nil => simp [memSet, memGet]
  | cons c m ih =>
    obtain ⟨k, w⟩ := c
    unfold memSet
    split
    · simp [memGet]
    · split
      · next h => subst h; by_cases hab : a = b <;> simp [memGet, hab]
      · next h1 h2 =>
        by_cases hk : k = b
        · subst hk; simp [memGet, h2]
        · simp [memGet, hk, ih]

@[simp] theorem memGet_memSet_same (m : Memory) (a : Nat) (v : Byte) : memGet (memSet m a v) a = some v := by
  simp [memGet_memSet]

theorem memGet_memSet_ne (m : Memory) {a b : Nat} (v : Byte) (h : a ≠ b) :
    memGet (memSet m a v) b = memGet m b := by
  simp [memGet_memSet, h]

theorem memGet_memClear (m : Memory) (lo hi b : Nat) :
    memGet (memClear m lo hi) b = if lo ≤ b ∧ b < hi then none else memGet m b := by
  induction m with
  | nil => simp [memClear, memGet]
  | cons c m ih =>
    obtain ⟨k, w⟩ := c
    unfold memClear at ih ⊢
    by_cases hk : lo ≤ k ∧ k < hi
    · rw [List.filter_cons_of_neg (by simp [hk.1, hk.2]), ih]
      by_cases hb : lo ≤ b ∧ b < hi
      · simp [hb]
      · have : k ≠ b := by rintro rfl; exact hb hk
        simp [hb, memGet, this]
    · rw [List.filter_cons_of_pos (by simp; omega)]
      simp only [memGet, ih]
      by_cases hkb : k = b
      · subst hkb; simp [hk]
      · simp [hkb]

theorem flashRead_memClear (m : Memory) (lo hi b : Nat) :
    flashRead (memClear m lo hi) b = if lo ≤ b ∧ b < hi then Config.erasedByte else flashRead m b := by
  unfold flashRead
  rw [memGet_memClear]
  split <;> rfl

theorem flashRead_flashWrite (m : Memory) (a b : Nat) (v : Byte) :
    flashRead (flashWrite m a v) b = if a = b then v else flashRead m b := by
  unfold flashWrite
  split
  · next h =>
    rw [flashRead_memClear]
    by_cases hab : a = b
    · subst hab; simp [h]
    · rw [if_neg (by omega), if_neg hab]
  · unfold flashRead
    rw [memGet_memSet]
    split <;> rfl

/-- A store at listed addresses leaves every other address alone. -/
theorem flashRead_flashWriteAt_of_not_mem (as : List Nat) (vs : List Byte) (m : Memory) {b : Nat}
    (h : b ∉ as) : flashRead (flashWriteAt m as vs) b = flashRead m b := by
  induction as generalizing m vs with
  | nil => cases vs <;> rfl
  | cons a as ih =>
    cases vs with
    | nil => rfl
    | cons v vs =>
      rw [flashWriteAt, ih _ _ (fun hm => h (List.mem_cons_of_mem _ hm)), flashRead_flashWrite, if_neg]
      rintro rfl
      exact h List.mem_cons_self

/-- A store at listed addresses, none twice, stores byte `i` at address `i`. -/
theorem flashRead_flashWriteAt (as : List Nat) (vs : List Byte) (m : Memory) (hn : as.Nodup) (i : Nat)
    (ha : i < as.length) (hv : i < vs.length) : flashRead (flashWriteAt m as vs) as[i] = vs[i] := by
  induction as generalizing m vs i with
  | nil => exact absurd ha (by simp)
  | cons a as ih =>
    cases vs with
    | nil => exact absurd hv (by simp)
    | cons v vs =>
      rw [List.nodup_cons] at hn
      cases i with
      | zero =>
        simp only [flashWriteAt, List.getElem_cons_zero]
        rw [flashRead_flashWriteAt_of_not_mem _ _ _ hn.1, flashRead_flashWrite, if_pos rfl]
      | succ i =>
        simp only [flashWriteAt, List.getElem_cons_succ]
        exact ih _ _ hn.2 i (by simpa using ha) (by simpa using hv)

/-- `dbufStore` stores byte `i` of the list at index `b + i` and leaves every other index alone. -/
theorem memGet_dbufStore (vs : List Byte) (m : Memory) (b x : Nat) :
    memGet (dbufStore m b vs) x =
      if h : b ≤ x ∧ x < b + vs.length then some (vs[x - b]'(by omega)) else memGet m x := by
  induction vs generalizing m b with
  | nil => simp [dbufStore]
  | cons v vs ih =>
    rw [dbufStore, ih, memGet_memSet]
    by_cases h1 : b + 1 ≤ x ∧ x < b + 1 + vs.length
    · rw [dif_pos h1, dif_pos (by simp; omega)]
      congr 1
      have : x - b = (x - (b + 1)) + 1 := by omega
      simp only [this, List.getElem_cons_succ]
    · rw [dif_neg h1]
      by_cases h2 : b = x
      · subst h2; simp
      · rw [if_neg h2, dif_neg (by simp; omega)]

/-! ### The canonical form -/

theorem memSet_mem {m : Memory} {a : Nat} {v : Byte} {c : Host.Cell} (h : c ∈ memSet m a v) :
    c = (a, v) ∨ c ∈ m := by
  induction m with
  | nil => simpa [memSet] using h
  | cons d m ih =>
    obtain ⟨k, w⟩ := d
    unfold memSet at h
    split at h
    · simpa using h
    · split at h
      · rcases List.mem_cons.1 h with h | h
        · exact .inl h
        · exact .inr (List.mem_cons_of_mem _ h)
      · rcases List.mem_cons.1 h with h | h
        · exact .inr (h ▸ List.mem_cons_self)
        · exact (ih h).imp_right (List.mem_cons_of_mem _)

theorem memSet_wf {m : Memory} (h : m.wf) (a : Nat) (v : Byte) : (memSet m a v).wf := by
  induction m with
  | nil => simp [memSet, Memory.wf]
  | cons d m ih =>
    obtain ⟨k, w⟩ := d
    have h' := h
    unfold Memory.wf at h
    rw [List.pairwise_cons] at h
    unfold memSet
    split
    · next hak =>
      unfold Memory.wf
      rw [List.pairwise_cons]
      refine ⟨fun c hc => ?_, h'⟩
      rcases List.mem_cons.1 hc with rfl | hc
      · exact hak
      · exact Nat.lt_trans hak (h.1 c hc)
    · split
      · next hak => subst hak; exact List.pairwise_cons.2 ⟨fun c hc => h.1 c hc, h.2⟩
      · next h1 h2 =>
        refine List.pairwise_cons.2 ⟨fun c hc => ?_, ih h.2⟩
        rcases memSet_mem hc with rfl | hc
        · show k < a; omega
        · exact h.1 c hc

theorem memClear_wf {m : Memory} (h : m.wf) (lo hi : Nat) : (memClear m lo hi).wf := List.Pairwise.filter _ h

theorem memClear_mem {m : Memory} {lo hi : Nat} {c : Host.Cell} (h : c ∈ memClear m lo hi) : c ∈ m :=
  (List.mem_filter.1 h).1

theorem flashWrite_wf {m : Memory} (h : flashWf m) {a : Nat} (ha : a < Config.flashSize) (v : Byte) :
    flashWf (flashWrite m a v) := by
  unfold flashWrite
  split
  · exact ⟨memClear_wf h.1 _ _, fun c hc => h.2 c (memClear_mem hc)⟩
  · next hv =>
    refine ⟨memSet_wf h.1 _ _, fun c hc => ?_⟩
    rcases memSet_mem hc with rfl | hc
    · exact ⟨ha, hv⟩
    · exact h.2 c hc

theorem flashWriteAt_wf {m : Memory} (h : flashWf m) (as : List Nat) (vs : List Byte)
    (ha : ∀ a ∈ as, a < Config.flashSize) : flashWf (flashWriteAt m as vs) := by
  induction as generalizing m vs with
  | nil => cases vs <;> exact h
  | cons a as ih =>
    cases vs with
    | nil => exact h
    | cons v vs =>
      exact ih (flashWrite_wf h (ha a List.mem_cons_self) v) vs fun b hb => ha b (List.mem_cons_of_mem _ hb)

theorem flash_memClear_wf {m : Memory} (h : flashWf m) (lo hi : Nat) : flashWf (memClear m lo hi) :=
  ⟨memClear_wf h.1 _ _, fun c hc => h.2 c (memClear_mem hc)⟩

theorem dbuf_memSet_wf {size : Nat} {m : Memory} (h : dbufWf size m) {i : Nat} (hi : i < size) (v : Byte) :
    dbufWf size (memSet m i v) := by
  refine ⟨memSet_wf h.1 _ _, fun c hc => ?_⟩
  rcases memSet_mem hc with rfl | hc
  · exact hi
  · exact h.2 c hc

theorem dbufStore_wf {size : Nat} {m : Memory} (h : dbufWf size m) (i : Nat) (vs : List Byte)
    (hi : i + vs.length ≤ size) : dbufWf size (dbufStore m i vs) := by
  induction vs generalizing m i with
  | nil => exact h
  | cons v vs ih =>
    simp only [List.length_cons] at hi
    exact ih (dbuf_memSet_wf h (by omega) v) (i + 1) (by omega)

/-- The memories after reset are in canonical form. -/
theorem reset_memories_wf : flashWf State.reset.dev.flash ∧ dbufWf State.reset.cfg.dbufSize State.reset.dbuf := by decide

/-! ### The addresses of an operation -/

theorem progAddr_eq {a i : Nat} (h : a % Config.pageSize + i < Config.pageSize) : progAddr a i = a + i := by
  unfold progAddr
  rw [Nat.mod_eq_of_lt h]
  have := Nat.mod_le a Config.pageSize
  omega

theorem opAddrs_program {a : Nat} {d : List Byte} (h : a % Config.pageSize + d.length ≤ Config.pageSize) :
    opAddrs (.program a d) = List.range' a d.length := by
  unfold opAddrs
  apply List.ext_getElem
  · simp
  · intro i h1 h2
    simp only [List.length_map, List.length_range] at h1
    simp only [List.getElem_map, List.getElem_range, List.getElem_range', Nat.one_mul]
    exact progAddr_eq (by omega)

@[simp] theorem freeBytes_length (k n : Nat) : (freeBytes k n).length = n := by simp [freeBytes]

@[simp] theorem freeBytes_getElem (k n i : Nat) (h : i < (freeBytes k n).length) :
    (freeBytes k n)[i] = Config.freeByte (k + i) := by simp [freeBytes]

@[simp] theorem flashBytes_length (m : Memory) (a n : Nat) : (flashBytes m a n).length = n := by simp [flashBytes]

@[simp] theorem dbufBytes_length (m : Memory) (b n : Nat) : (dbufBytes m b n).length = n := by simp [dbufBytes]

theorem dbufDefined_iff (m : Memory) (b n : Nat) :
    dbufDefined m b n = true ↔ ∀ i < n, ∃ v, memGet m (b + i) = some v := by
  simp [dbufDefined, Option.isSome_iff_exists]

/-- A store of bytes on the contiguous range from `lo` up. -/
theorem flashRead_flashWriteAt_range (m : Memory) (lo n : Nat) (vs : List Byte) (hv : vs.length = n) (x : Nat) :
    flashRead (flashWriteAt m (List.range' lo n) vs) x =
      if h : lo ≤ x ∧ x < lo + n then vs[x - lo]'(by omega) else flashRead m x := by
  split
  · next h =>
    have hlen : x - lo < (List.range' lo n).length := by simp; omega
    have := flashRead_flashWriteAt (List.range' lo n) vs m (List.nodup_range' ) (x - lo) hlen (by omega)
    rw [← this]
    congr 1
    simp
    omega
  · next h =>
    exact flashRead_flashWriteAt_of_not_mem _ _ _ (by simp [List.mem_range'_1]; omega)

end Sys2Proof.Machine
end

