-- ==== Sys2Proof/Laws/State.lean ====
section
/-! SUPPORT. One lemma per field of State for each named update of it, true by rfl, so that no later proof
unfolds a record update. -/

namespace Sys2Proof.Machine

@[simp] theorem bump_cmd (n : Nat) (s : State) : (bump n s).cmd = s.cmd := rfl
@[simp] theorem bump_status (n : Nat) (s : State) : (bump n s).status = s.status := rfl
@[simp] theorem bump_addr (n : Nat) (s : State) : (bump n s).addr = s.addr := rfl
@[simp] theorem bump_len (n : Nat) (s : State) : (bump n s).len = s.len := rfl
@[simp] theorem bump_boff (n : Nat) (s : State) : (bump n s).boff = s.boff := rfl
@[simp] theorem bump_crcState (n : Nat) (s : State) : (bump n s).crcState = s.crcState := rfl
@[simp] theorem bump_valCalc (n : Nat) (s : State) : (bump n s).valCalc = s.valCalc := rfl
@[simp] theorem bump_valStored (n : Nat) (s : State) : (bump n s).valStored = s.valStored := rfl
@[simp] theorem bump_jedecId (n : Nat) (s : State) : (bump n s).jedecId = s.jedecId := rfl
@[simp] theorem bump_dbuf (n : Nat) (s : State) : (bump n s).dbuf = s.dbuf := rfl
@[simp] theorem bump_seq (n : Nat) (s : State) : (bump n s).seq = s.seq := rfl
@[simp] theorem bump_dev (n : Nat) (s : State) : (bump n s).dev = s.dev := rfl
@[simp] theorem bump_cfg (n : Nat) (s : State) : (bump n s).cfg = s.cfg := rfl
@[simp] theorem bump_raced (n : Nat) (s : State) : (bump n s).raced = s.raced := rfl
@[simp] theorem bump_issued (n : Nat) (s : State) : (bump n s).issued = s.issued := rfl
@[simp] theorem bump_draws (n : Nat) (s : State) : (bump n s).draws = s.draws + n := rfl
@[simp] theorem bump_agenda (n : Nat) (s : State) : (bump n s).agenda = s.agenda := rfl
@[simp] theorem bump_readLog (n : Nat) (s : State) : (bump n s).readLog = s.readLog := rfl
@[simp] theorem bump_spiLog (n : Nat) (s : State) : (bump n s).spiLog = s.spiLog := rfl

@[simp] theorem enter_cmd (l : Latch) (p : Phase) (s : State) : (enter l p s).cmd = s.cmd := rfl
@[simp] theorem enter_status (l : Latch) (p : Phase) (s : State) : (enter l p s).status = s.status := rfl
@[simp] theorem enter_addr (l : Latch) (p : Phase) (s : State) : (enter l p s).addr = s.addr := rfl
@[simp] theorem enter_len (l : Latch) (p : Phase) (s : State) : (enter l p s).len = s.len := rfl
@[simp] theorem enter_boff (l : Latch) (p : Phase) (s : State) : (enter l p s).boff = s.boff := rfl
@[simp] theorem enter_crcState (l : Latch) (p : Phase) (s : State) : (enter l p s).crcState = s.crcState := rfl
@[simp] theorem enter_valCalc (l : Latch) (p : Phase) (s : State) : (enter l p s).valCalc = s.valCalc := rfl
@[simp] theorem enter_valStored (l : Latch) (p : Phase) (s : State) : (enter l p s).valStored = s.valStored := rfl
@[simp] theorem enter_jedecId (l : Latch) (p : Phase) (s : State) : (enter l p s).jedecId = s.jedecId := rfl
@[simp] theorem enter_dbuf (l : Latch) (p : Phase) (s : State) : (enter l p s).dbuf = s.dbuf := rfl
@[simp] theorem enter_seq (l : Latch) (p : Phase) (s : State) : (enter l p s).seq = .run l p := rfl
@[simp] theorem enter_dev (l : Latch) (p : Phase) (s : State) : (enter l p s).dev = s.dev := rfl
@[simp] theorem enter_cfg (l : Latch) (p : Phase) (s : State) : (enter l p s).cfg = s.cfg := rfl
@[simp] theorem enter_raced (l : Latch) (p : Phase) (s : State) : (enter l p s).raced = s.raced := rfl
@[simp] theorem enter_issued (l : Latch) (p : Phase) (s : State) : (enter l p s).issued = s.issued := rfl
@[simp] theorem enter_draws (l : Latch) (p : Phase) (s : State) : (enter l p s).draws = s.draws := rfl
@[simp] theorem enter_agenda (l : Latch) (p : Phase) (s : State) : (enter l p s).agenda = s.agenda := rfl
@[simp] theorem enter_readLog (l : Latch) (p : Phase) (s : State) : (enter l p s).readLog = s.readLog := rfl
@[simp] theorem enter_spiLog (l : Latch) (p : Phase) (s : State) : (enter l p s).spiLog = s.spiLog := rfl

@[simp] theorem finish_cmd (c : Code) (s : State) : (finish c s).cmd = s.cmd := rfl
@[simp] theorem finish_status (c : Code) (s : State) : (finish c s).status = statusFinish c s.status := rfl
@[simp] theorem finish_addr (c : Code) (s : State) : (finish c s).addr = s.addr := rfl
@[simp] theorem finish_len (c : Code) (s : State) : (finish c s).len = s.len := rfl
@[simp] theorem finish_boff (c : Code) (s : State) : (finish c s).boff = s.boff := rfl
@[simp] theorem finish_crcState (c : Code) (s : State) : (finish c s).crcState = s.crcState := rfl
@[simp] theorem finish_valCalc (c : Code) (s : State) : (finish c s).valCalc = s.valCalc := rfl
@[simp] theorem finish_valStored (c : Code) (s : State) : (finish c s).valStored = s.valStored := rfl
@[simp] theorem finish_jedecId (c : Code) (s : State) : (finish c s).jedecId = s.jedecId := rfl
@[simp] theorem finish_dbuf (c : Code) (s : State) : (finish c s).dbuf = s.dbuf := rfl
@[simp] theorem finish_seq (c : Code) (s : State) : (finish c s).seq = .idle := rfl
@[simp] theorem finish_dev (c : Code) (s : State) : (finish c s).dev = s.dev := rfl
@[simp] theorem finish_cfg (c : Code) (s : State) : (finish c s).cfg = s.cfg := rfl
@[simp] theorem finish_raced (c : Code) (s : State) : (finish c s).raced = [] := rfl
@[simp] theorem finish_issued (c : Code) (s : State) : (finish c s).issued = none := rfl
@[simp] theorem finish_draws (c : Code) (s : State) : (finish c s).draws = s.draws := rfl
@[simp] theorem finish_agenda (c : Code) (s : State) : (finish c s).agenda = s.agenda := rfl
@[simp] theorem finish_readLog (c : Code) (s : State) : (finish c s).readLog = s.readLog := rfl
@[simp] theorem finish_spiLog (c : Code) (s : State) : (finish c s).spiLog = s.spiLog := rfl

@[simp] theorem accept_cmd (w : Word) (s : State) : (accept w s).cmd = w := rfl
@[simp] theorem accept_status (w : Word) (s : State) : (accept w s).status = statusAccept s.status := rfl
@[simp] theorem accept_addr (w : Word) (s : State) : (accept w s).addr = s.addr := rfl
@[simp] theorem accept_len (w : Word) (s : State) : (accept w s).len = s.len := rfl
@[simp] theorem accept_boff (w : Word) (s : State) : (accept w s).boff = s.boff := rfl
@[simp] theorem accept_crcState (w : Word) (s : State) : (accept w s).crcState = s.crcState := rfl
@[simp] theorem accept_valCalc (w : Word) (s : State) : (accept w s).valCalc = s.valCalc := rfl
@[simp] theorem accept_valStored (w : Word) (s : State) : (accept w s).valStored = s.valStored := rfl
@[simp] theorem accept_jedecId (w : Word) (s : State) : (accept w s).jedecId = s.jedecId := rfl
@[simp] theorem accept_dbuf (w : Word) (s : State) : (accept w s).dbuf = s.dbuf := rfl
@[simp] theorem accept_seq (w : Word) (s : State) : (accept w s).seq = .run { opw := w, a := s.addr, n := s.len, b := s.boff } .decode := rfl
@[simp] theorem accept_dev (w : Word) (s : State) : (accept w s).dev = s.dev := rfl
@[simp] theorem accept_cfg (w : Word) (s : State) : (accept w s).cfg = s.cfg := rfl
@[simp] theorem accept_raced (w : Word) (s : State) : (accept w s).raced = [] := rfl
@[simp] theorem accept_issued (w : Word) (s : State) : (accept w s).issued = none := rfl
@[simp] theorem accept_draws (w : Word) (s : State) : (accept w s).draws = s.draws := rfl
@[simp] theorem accept_agenda (w : Word) (s : State) : (accept w s).agenda = s.agenda := rfl
@[simp] theorem accept_readLog (w : Word) (s : State) : (accept w s).readLog = s.readLog := rfl
@[simp] theorem accept_spiLog (w : Word) (s : State) : (accept w s).spiLog = s.spiLog := rfl

@[simp] theorem overrun_cmd (s : State) : (overrun s).cmd = s.cmd := rfl
@[simp] theorem overrun_status (s : State) : (overrun s).status = statusOverrun s.status := rfl
@[simp] theorem overrun_addr (s : State) : (overrun s).addr = s.addr := rfl
@[simp] theorem overrun_len (s : State) : (overrun s).len = s.len := rfl
@[simp] theorem overrun_boff (s : State) : (overrun s).boff = s.boff := rfl
@[simp] theorem overrun_crcState (s : State) : (overrun s).crcState = s.crcState := rfl
@[simp] theorem overrun_valCalc (s : State) : (overrun s).valCalc = s.valCalc := rfl
@[simp] theorem overrun_valStored (s : State) : (overrun s).valStored = s.valStored := rfl
@[simp] theorem overrun_jedecId (s : State) : (overrun s).jedecId = s.jedecId := rfl
@[simp] theorem overrun_dbuf (s : State) : (overrun s).dbuf = s.dbuf := rfl
@[simp] theorem overrun_seq (s : State) : (overrun s).seq = s.seq := rfl
@[simp] theorem overrun_dev (s : State) : (overrun s).dev = s.dev := rfl
@[simp] theorem overrun_cfg (s : State) : (overrun s).cfg = s.cfg := rfl
@[simp] theorem overrun_raced (s : State) : (overrun s).raced = s.raced := rfl
@[simp] theorem overrun_issued (s : State) : (overrun s).issued = s.issued := rfl
@[simp] theorem overrun_draws (s : State) : (overrun s).draws = s.draws := rfl
@[simp] theorem overrun_agenda (s : State) : (overrun s).agenda = s.agenda := rfl
@[simp] theorem overrun_readLog (s : State) : (overrun s).readLog = s.readLog := rfl
@[simp] theorem overrun_spiLog (s : State) : (overrun s).spiLog = s.spiLog := rfl

@[simp] theorem settleDevice_cmd (s : State) : (settleDevice s).cmd = s.cmd := rfl
@[simp] theorem settleDevice_status (s : State) : (settleDevice s).status = s.status := rfl
@[simp] theorem settleDevice_addr (s : State) : (settleDevice s).addr = s.addr := rfl
@[simp] theorem settleDevice_len (s : State) : (settleDevice s).len = s.len := rfl
@[simp] theorem settleDevice_boff (s : State) : (settleDevice s).boff = s.boff := rfl
@[simp] theorem settleDevice_crcState (s : State) : (settleDevice s).crcState = s.crcState := rfl
@[simp] theorem settleDevice_valCalc (s : State) : (settleDevice s).valCalc = s.valCalc := rfl
@[simp] theorem settleDevice_valStored (s : State) : (settleDevice s).valStored = s.valStored := rfl
@[simp] theorem settleDevice_jedecId (s : State) : (settleDevice s).jedecId = s.jedecId := rfl
@[simp] theorem settleDevice_dbuf (s : State) : (settleDevice s).dbuf = s.dbuf := rfl
@[simp] theorem settleDevice_seq (s : State) : (settleDevice s).seq = s.seq := rfl
@[simp] theorem settleDevice_dev (s : State) : (settleDevice s).dev = { s.dev with pending := none, wel := false } := rfl
@[simp] theorem settleDevice_cfg (s : State) : (settleDevice s).cfg = s.cfg := rfl
@[simp] theorem settleDevice_raced (s : State) : (settleDevice s).raced = s.raced := rfl
@[simp] theorem settleDevice_issued (s : State) : (settleDevice s).issued = s.issued := rfl
@[simp] theorem settleDevice_draws (s : State) : (settleDevice s).draws = s.draws := rfl
@[simp] theorem settleDevice_agenda (s : State) : (settleDevice s).agenda = s.agenda := rfl
@[simp] theorem settleDevice_readLog (s : State) : (settleDevice s).readLog = s.readLog := rfl
@[simp] theorem settleDevice_spiLog (s : State) : (settleDevice s).spiLog = s.spiLog := rfl

@[simp] theorem statusAccept_busy (st : Status) :
    (statusAccept st).busy = true := rfl
@[simp] theorem statusAccept_done (st : Status) :
    (statusAccept st).done = false := rfl
@[simp] theorem statusAccept_ovr (st : Status) :
    (statusAccept st).ovr = st.ovr := rfl
@[simp] theorem statusAccept_err (st : Status) :
    (statusAccept st).err = .ok := rfl
@[simp] theorem statusAccept_magicOk (st : Status) :
    (statusAccept st).magicOk = false := rfl
@[simp] theorem statusAccept_versionOk (st : Status) :
    (statusAccept st).versionOk = false := rfl
@[simp] theorem statusAccept_crcOk (st : Status) :
    (statusAccept st).crcOk = false := rfl
@[simp] theorem statusAccept_idOk (st : Status) :
    (statusAccept st).idOk = false := rfl

@[simp] theorem statusFinish_busy (c : Code) (st : Status) :
    (statusFinish c st).busy = false := rfl
@[simp] theorem statusFinish_done (c : Code) (st : Status) :
    (statusFinish c st).done = true := rfl
@[simp] theorem statusFinish_ovr (c : Code) (st : Status) :
    (statusFinish c st).ovr = st.ovr := rfl
@[simp] theorem statusFinish_err (c : Code) (st : Status) :
    (statusFinish c st).err = c := rfl
@[simp] theorem statusFinish_magicOk (c : Code) (st : Status) :
    (statusFinish c st).magicOk = st.magicOk := rfl
@[simp] theorem statusFinish_versionOk (c : Code) (st : Status) :
    (statusFinish c st).versionOk = st.versionOk := rfl
@[simp] theorem statusFinish_crcOk (c : Code) (st : Status) :
    (statusFinish c st).crcOk = st.crcOk := rfl
@[simp] theorem statusFinish_idOk (c : Code) (st : Status) :
    (statusFinish c st).idOk = st.idOk := rfl

@[simp] theorem statusOverrun_busy (st : Status) :
    (statusOverrun st).busy = st.busy := rfl
@[simp] theorem statusOverrun_done (st : Status) :
    (statusOverrun st).done = st.done := rfl
@[simp] theorem statusOverrun_ovr (st : Status) :
    (statusOverrun st).ovr = true := rfl
@[simp] theorem statusOverrun_err (st : Status) :
    (statusOverrun st).err = st.err := rfl
@[simp] theorem statusOverrun_magicOk (st : Status) :
    (statusOverrun st).magicOk = st.magicOk := rfl
@[simp] theorem statusOverrun_versionOk (st : Status) :
    (statusOverrun st).versionOk = st.versionOk := rfl
@[simp] theorem statusOverrun_crcOk (st : Status) :
    (statusOverrun st).crcOk = st.crcOk := rfl
@[simp] theorem statusOverrun_idOk (st : Status) :
    (statusOverrun st).idOk = st.idOk := rfl

@[simp] theorem statusWrite_busy (v : Word) (st : Status) :
    (statusWrite v st).busy = st.busy := rfl
@[simp] theorem statusWrite_done (v : Word) (st : Status) :
    (statusWrite v st).done = (if v.getLsbD 1 then false else st.done) := rfl
@[simp] theorem statusWrite_ovr (v : Word) (st : Status) :
    (statusWrite v st).ovr = (if v.getLsbD 2 then false else st.ovr) := rfl
@[simp] theorem statusWrite_err (v : Word) (st : Status) :
    (statusWrite v st).err = st.err := rfl
@[simp] theorem statusWrite_magicOk (v : Word) (st : Status) :
    (statusWrite v st).magicOk = st.magicOk := rfl
@[simp] theorem statusWrite_versionOk (v : Word) (st : Status) :
    (statusWrite v st).versionOk = st.versionOk := rfl
@[simp] theorem statusWrite_crcOk (v : Word) (st : Status) :
    (statusWrite v st).crcOk = st.crcOk := rfl
@[simp] theorem statusWrite_idOk (v : Word) (st : Status) :
    (statusWrite v st).idOk = st.idOk := rfl

@[simp] theorem statusValidated_busy (m v c : Bool) (st : Status) :
    (statusValidated m v c st).busy = st.busy := rfl
@[simp] theorem statusValidated_done (m v c : Bool) (st : Status) :
    (statusValidated m v c st).done = st.done := rfl
@[simp] theorem statusValidated_ovr (m v c : Bool) (st : Status) :
    (statusValidated m v c st).ovr = st.ovr := rfl
@[simp] theorem statusValidated_err (m v c : Bool) (st : Status) :
    (statusValidated m v c st).err = st.err := rfl
@[simp] theorem statusValidated_magicOk (m v c : Bool) (st : Status) :
    (statusValidated m v c st).magicOk = m := rfl
@[simp] theorem statusValidated_versionOk (m v c : Bool) (st : Status) :
    (statusValidated m v c st).versionOk = v := rfl
@[simp] theorem statusValidated_crcOk (m v c : Bool) (st : Status) :
    (statusValidated m v c st).crcOk = c := rfl
@[simp] theorem statusValidated_idOk (m v c : Bool) (st : Status) :
    (statusValidated m v c st).idOk = st.idOk := rfl

@[simp] theorem statusIdentified_busy (st : Status) :
    (statusIdentified st).busy = st.busy := rfl
@[simp] theorem statusIdentified_done (st : Status) :
    (statusIdentified st).done = st.done := rfl
@[simp] theorem statusIdentified_ovr (st : Status) :
    (statusIdentified st).ovr = st.ovr := rfl
@[simp] theorem statusIdentified_err (st : Status) :
    (statusIdentified st).err = st.err := rfl
@[simp] theorem statusIdentified_magicOk (st : Status) :
    (statusIdentified st).magicOk = st.magicOk := rfl
@[simp] theorem statusIdentified_versionOk (st : Status) :
    (statusIdentified st).versionOk = st.versionOk := rfl
@[simp] theorem statusIdentified_crcOk (st : Status) :
    (statusIdentified st).crcOk = st.crcOk := rfl
@[simp] theorem statusIdentified_idOk (st : Status) :
    (statusIdentified st).idOk = true := rfl

@[simp] theorem redrawFlash_cmd (a : Nat) (s : State) : (redrawFlash a s).cmd = s.cmd := rfl
@[simp] theorem redrawFlash_status (a : Nat) (s : State) : (redrawFlash a s).status = s.status := rfl
@[simp] theorem redrawFlash_addr (a : Nat) (s : State) : (redrawFlash a s).addr = s.addr := rfl
@[simp] theorem redrawFlash_len (a : Nat) (s : State) : (redrawFlash a s).len = s.len := rfl
@[simp] theorem redrawFlash_boff (a : Nat) (s : State) : (redrawFlash a s).boff = s.boff := rfl
@[simp] theorem redrawFlash_crcState (a : Nat) (s : State) : (redrawFlash a s).crcState = s.crcState := rfl
@[simp] theorem redrawFlash_valCalc (a : Nat) (s : State) : (redrawFlash a s).valCalc = s.valCalc := rfl
@[simp] theorem redrawFlash_valStored (a : Nat) (s : State) : (redrawFlash a s).valStored = s.valStored := rfl
@[simp] theorem redrawFlash_jedecId (a : Nat) (s : State) : (redrawFlash a s).jedecId = s.jedecId := rfl
@[simp] theorem redrawFlash_dbuf (a : Nat) (s : State) : (redrawFlash a s).dbuf = s.dbuf := rfl
@[simp] theorem redrawFlash_seq (a : Nat) (s : State) : (redrawFlash a s).seq = s.seq := rfl
@[simp] theorem redrawFlash_cfg (a : Nat) (s : State) : (redrawFlash a s).cfg = s.cfg := rfl
@[simp] theorem redrawFlash_raced (a : Nat) (s : State) : (redrawFlash a s).raced = s.raced := rfl
@[simp] theorem redrawFlash_issued (a : Nat) (s : State) : (redrawFlash a s).issued = s.issued := rfl
@[simp] theorem redrawFlash_agenda (a : Nat) (s : State) : (redrawFlash a s).agenda = s.agenda := rfl
@[simp] theorem redrawFlash_readLog (a : Nat) (s : State) : (redrawFlash a s).readLog = s.readLog := rfl
@[simp] theorem redrawFlash_spiLog (a : Nat) (s : State) : (redrawFlash a s).spiLog = s.spiLog := rfl
@[simp] theorem redrawFlash_draws (a : Nat) (s : State) : (redrawFlash a s).draws = s.draws + 1 := rfl
@[simp] theorem redrawFlash_dev (a : Nat) (s : State) : (redrawFlash a s).dev =
    { s.dev with flash := flashWrite s.dev.flash a (Config.freeByte s.draws) } := rfl

end Sys2Proof.Machine
end

