-- ==== Sys2Proof/Laws/Micro.lean ====
section
/-! SUPPORT. The specification lemmas of the shared operations of the sequencer and the device: what each can
do, said once, for proofs to cite instead of unfolding it. -/

namespace Sys2Proof.Machine

open Sys2Proof.Safety

/-! ### A command's next micro-step, by its phase -/

/-- The phase after the decode step, by command. -/
def firstOf (cfg : Config) (i : Instr) (l : Latch) : Phase :=
  match i with
  | .nop => planOf cfg .nop l
  | .crcInit => planOf cfg .crcInit l
  | .eraseChip => planOf cfg .eraseChip l
  | .readId => planOf cfg .readId l
  | .read => .check
  | .progPage => .check
  | .write => .check
  | .eraseSector => .check
  | .eraseBlock => .check
  | .crcBuf => .check
  | .validateRecord => .check
  | .validateHeader => .check

/-- The races settled at `finish`, by command. -/
def settleOf (i : Instr) : Code → State → Code × State :=
  match i with
  | .read => settleRead
  | .crcBuf => settleCrc
  | .validateRecord => settleValidate
  | .validateHeader => settleValidate
  | .nop => settleNone
  | .progPage => settleNone
  | .write => settleNone
  | .eraseSector => settleNone
  | .eraseBlock => settleNone
  | .eraseChip => settleNone
  | .readId => settleNone
  | .crcInit => settleNone

/-- The micro-step of command `i` in phase `p`. -/
def microStep (i : Instr) (l : Latch) (p : Phase) (s : State) : Result :=
  match p with
  | .decode => .next (enter l (firstOf s.cfg i l) s)
  | .check => .next (enter l (planOf s.cfg i l) s)
  | .prePoll tmo job => .next (pollStep l (afterPrePoll tmo job) s)
  | .receive a n b => .next (receiveStep l a n b s)
  | .deposit b bytes code => .next (depositStep l b bytes code s)
  | .identify => .next (identifyStep l s)
  | .writeEnable tmo op rest => .next (writeEnableStep l tmo op rest s)
  | .frame tmo op rest => frameStep l tmo op rest s
  | .postPoll tmo rest => .next (pollStep l (afterPostPoll tmo rest) s)
  | .seed => .next (seedStep l s)
  | .feed i => feedStep l i s
  | .judge img => judgeStep l img s
  | .finish code => .next (finish (settleOf i code s).1 (settleOf i code s).2)

/-- Every meaning is `runCommand` of its own first phase, plan and settling. -/
theorem exec_eq_runCommand (i : Instr) (s : State) :
    exec i s = runCommand (firstOf s.cfg i) (planOf s.cfg i) (settleOf i) s := by
  cases i <;> rfl

theorem exec_idle (i : Instr) {s : State} (h : s.seq = .idle) : exec i s = .next s := by
  rw [exec_eq_runCommand, runCommand, h]

theorem exec_run (i : Instr) {s : State} {l : Latch} {p : Phase} (h : s.seq = .run l p) :
    exec i s = microStep i l p s := by
  rw [exec_eq_runCommand, runCommand, h]
  cases p <;> rfl

/-- With no host write in the command's range, `finish` settles nothing (70_reset_and_hazards.md R163). -/
theorem settleOf_unraced (i : Instr) (c : Code) {s : State} (h : s.raced = []) : settleOf i c s = (c, s) := by
  have hr : settleRead c s = (c, s) := by obtain ⟨⟩ := s; cases h; rfl
  have he : s.raced.isEmpty = true := by rw [h]; rfl
  cases i <;> first | exact hr | rfl | exact if_pos he

/-! ### Transactions -/

/-- The frame is on the wire, and the transaction's outcome is drawn. -/
def sent (f : Frame) (s : State) : State := { s with spiLog := f :: s.spiLog, draws := s.draws + 1 }

theorem xfer_fail {f : Frame} {s : State} (h : transactionFails s) :
    xfer f s = (none, transportFailure f (sent f s)) := by
  simp [xfer, h.1, h.2, sent]

theorem xfer_ok {f : Frame} {s : State} (h : ¬ transactionFails s) :
    xfer f s = (some (deviceTakes f (sent f s)).1, (deviceTakes f (sent f s)).2) := by
  rw [xfer, if_neg]
  · rfl
  · simpa using h

theorem xfer_reliable {f : Frame} {s : State} (h : s.cfg.spiFaultDraw = false) :
    xfer f s = (some (deviceTakes f (sent f s)).1, (deviceTakes f (sent f s)).2) :=
  xfer_ok (by simp [h])

/-- A failed status read, read or identification leaves the device alone (40_flash_controller.md R102). -/
theorem transportFailure_of_no_effect {f : Frame} {s : State} (h : frameOp s.cfg f = none) (hw : f ≠ .writeEnable) :
    transportFailure f s = s := by
  unfold transportFailure
  split
  · rfl
  · exact absurd rfl hw
  · rw [h]

/-- An address of the array goes over the SPI bus unchanged (20_memory.md R62). -/
theorem sentAddr_ofNat {cfg : Config} (h : configWellFormed cfg = true) {a : Nat} (ha : a ≤ Config.flashSize) :
    sentAddr cfg (BitVec.ofNat 32 a) = a := by
  simp only [configWellFormed, spiAddrOk, Bool.and_eq_true, Bool.or_eq_true, beq_iff_eq] at h
  simp only [Config.flashSize] at ha
  simp only [sentAddr, BitVec.toNat_ofNat]
  rcases h.2 with h | h <;> rw [h] <;> omega

theorem arrayAddr_sentAddr_ofNat {cfg : Config} (h : configWellFormed cfg = true) {a : Nat}
    (ha : a < Config.flashSize) : arrayAddr (sentAddr cfg (BitVec.ofNat 32 a)) = a := by
  rw [sentAddr_ofNat h (Nat.le_of_lt ha), arrayAddr, Nat.mod_eq_of_lt ha]

/-- Bit 0 of status register 1 is `dev_busy` (10_state.md R41). -/
theorem sr1_bit_zero (d : Device) : (sr1 d).getLsbD 0 = d.pending.isSome := by
  have h : ∀ (x : BitVec 6) (b c : Bool), (x ++ BitVec.ofBool c ++ BitVec.ofBool b).getLsbD 0 = b := by decide
  exact h _ _ _

theorem deviceTakes_readStatus {s : State} (h : s.dev.fitted ≠ none) :
    deviceTakes .readStatus s = ([sr1 s.dev], s) := by
  obtain ⟨id, hid⟩ := Option.ne_none_iff_exists'.1 h
  unfold deviceTakes
  rw [hid]

theorem deviceTakes_writeEnable {s : State} (h : s.dev.fitted ≠ none) (hp : s.dev.pending = none) :
    deviceTakes .writeEnable s = ([], { s with dev := { s.dev with wel := true } }) := by
  obtain ⟨id, hid⟩ := Option.ne_none_iff_exists'.1 h
  simp [deviceTakes, hid, devBusy, hp]

theorem deviceTakes_read {s : State} {a : Word} {n : Nat} (h : s.dev.fitted ≠ none) (hp : s.dev.pending = none) :
    deviceTakes (.read a n) s = (flashBytes s.dev.flash (sentAddr s.cfg a) n, s) := by
  obtain ⟨id, hid⟩ := Option.ne_none_iff_exists'.1 h
  simp [deviceTakes, hid, devBusy, hp]

theorem deviceTakes_jedecId {s : State} {id : Word24} (h : s.dev.fitted = some id) (hp : s.dev.pending = none) :
    deviceTakes .jedecId s = (idBytes id, s) := by
  simp [deviceTakes, h, devBusy, hp]

/-- With no device present every reply byte is a draw (40_flash_controller.md R115). -/
theorem deviceTakes_absent {f : Frame} {s : State} (h : s.dev.fitted = none) :
    deviceTakes f s = (freeBytes s.draws (frameIn f), bump (frameIn f) s) := by
  unfold deviceTakes
  rw [h]
  rfl

/-- A program or erase frame: accepted exactly when the device is idle with WEL set (20_memory.md R71, R72). -/
theorem deviceTakes_mutation {f : Frame} {s : State} {op : DevOp} (h : s.dev.fitted ≠ none)
    (hf : frameOp s.cfg f = some op) : deviceTakes f s = ([], acceptOp op s) := by
  obtain ⟨id, hid⟩ := Option.ne_none_iff_exists'.1 h
  unfold deviceTakes
  rw [hid]
  cases f <;> simp_all [frameOp]

theorem acceptOp_ready {op : DevOp} {s : State} (hp : s.dev.pending = none) (hw : s.dev.wel = true) :
    acceptOp op s = { s with dev := { s.dev with pending := some op } } := by
  simp [acceptOp, devBusy, hp, hw]

theorem acceptOp_not_ready {op : DevOp} {s : State} (h : ¬ (s.dev.pending = none ∧ s.dev.wel = true)) :
    acceptOp op s = s := by
  rw [acceptOp, if_neg]
  cases hp : s.dev.pending <;> simp_all [devBusy]

/-- State `t` is `s` but for the pending operation, WEL, the draw index and the frame log. -/
structure SameBut (s t : State) : Prop where
  cmd_eq : t.cmd = s.cmd
  status_eq : t.status = s.status
  addr_eq : t.addr = s.addr
  len_eq : t.len = s.len
  boff_eq : t.boff = s.boff
  crcState_eq : t.crcState = s.crcState
  valCalc_eq : t.valCalc = s.valCalc
  valStored_eq : t.valStored = s.valStored
  jedecId_eq : t.jedecId = s.jedecId
  dbuf_eq : t.dbuf = s.dbuf
  seq_eq : t.seq = s.seq
  cfg_eq : t.cfg = s.cfg
  raced_eq : t.raced = s.raced
  issued_eq : t.issued = s.issued
  agenda_eq : t.agenda = s.agenda
  readLog_eq : t.readLog = s.readLog
  flash_eq : t.dev.flash = s.dev.flash
  srHigh_eq : t.dev.srHigh = s.dev.srHigh
  fitted_eq : t.dev.fitted = s.dev.fitted
  draws_le : s.draws ≤ t.draws

theorem SameBut.refl (s : State) : SameBut s s := by constructor <;> rfl

theorem SameBut.trans {s t u : State} (h : SameBut s t) (k : SameBut t u) : SameBut s u where
  cmd_eq := k.cmd_eq.trans h.cmd_eq
  status_eq := k.status_eq.trans h.status_eq
  addr_eq := k.addr_eq.trans h.addr_eq
  len_eq := k.len_eq.trans h.len_eq
  boff_eq := k.boff_eq.trans h.boff_eq
  crcState_eq := k.crcState_eq.trans h.crcState_eq
  valCalc_eq := k.valCalc_eq.trans h.valCalc_eq
  valStored_eq := k.valStored_eq.trans h.valStored_eq
  jedecId_eq := k.jedecId_eq.trans h.jedecId_eq
  dbuf_eq := k.dbuf_eq.trans h.dbuf_eq
  seq_eq := k.seq_eq.trans h.seq_eq
  cfg_eq := k.cfg_eq.trans h.cfg_eq
  raced_eq := k.raced_eq.trans h.raced_eq
  issued_eq := k.issued_eq.trans h.issued_eq
  agenda_eq := k.agenda_eq.trans h.agenda_eq
  readLog_eq := k.readLog_eq.trans h.readLog_eq
  flash_eq := k.flash_eq.trans h.flash_eq
  srHigh_eq := k.srHigh_eq.trans h.srHigh_eq
  fitted_eq := k.fitted_eq.trans h.fitted_eq
  draws_le := Nat.le_trans h.draws_le k.draws_le

theorem bump_same (n : Nat) (s : State) : SameBut s (bump n s) := by
  constructor <;> first | rfl | exact Nat.le_add_right _ _

theorem freeReply_same (f : Frame) (s : State) : SameBut s (freeReply f s).2 := bump_same _ s

theorem acceptOp_same (op : DevOp) (s : State) : SameBut s (acceptOp op s) := by
  unfold acceptOp
  split
  · constructor <;> rfl
  · exact .refl s

theorem frameOp_same (f : Frame) (s : State) : SameBut s ((frameOp s.cfg f).elim s fun op => acceptOp op s) := by
  cases frameOp s.cfg f with
  | none => exact .refl s
  | some op => exact acceptOp_same op s

theorem deviceTakes_same (f : Frame) (s : State) : SameBut s (deviceTakes f s).2 := by
  unfold deviceTakes
  split
  · exact freeReply_same f s
  · split
    · exact .refl s
    · split
      · exact .refl s
      · constructor <;> rfl
    · split
      · exact freeReply_same _ s
      · exact .refl s
    · split
      · exact freeReply_same _ s
      · exact .refl s
    all_goals (dsimp only; exact frameOp_same _ s)

theorem transportFailure_same (f : Frame) (s : State) : SameBut s (transportFailure f s) := by
  unfold transportFailure
  split
  · exact .refl s
  · constructor <;> first | rfl | exact Nat.le_add_right _ _
  · split
    · exact .refl s
    · split
      · exact .refl s
      · constructor <;> first | rfl | exact Nat.le_add_right _ _

/-- A transaction changes the pending operation, WEL, the draw index and the frame log, and nothing else. -/
theorem xfer_same (f : Frame) (s : State) : SameBut s (xfer f s).2 := by
  have h0 : SameBut s (sent f s) := by
    constructor <;> first | rfl | exact Nat.le_succ _
  by_cases h : transactionFails s
  · rw [xfer_fail h]
    exact h0.trans (transportFailure_same _ _)
  · rw [xfer_ok h]
    exact h0.trans (deviceTakes_same _ _)

/-! ### DevReady -/

/-- One iteration of `DevReady` with a device fitted (40_flash_controller.md R103): everything it can do. -/
theorem pollStep_fitted {l : Latch} {p : Phase} {s : State} (ready : Phase) (h : s.dev.fitted ≠ none)
    (hs : s.seq = .run l p) :
    pollStep l ready s = { s with
      draws := s.draws + (if ¬ transactionFails s ∧ s.dev.pending ≠ none then 2 else 1)
      spiLog := .readStatus :: s.spiLog
      seq := .run l
        (if transactionFails s then .finish .errSpi
        else if s.dev.pending = none then ready
        else if s.cfg.timeoutDraw = true ∧ Config.freeBool (s.draws + 1) = true then .finish .errTimeout
        else p) } := by
  by_cases hx : transactionFails s
  · unfold pollStep
    rw [xfer_fail hx, if_pos hx, if_neg (by simp [hx]), transportFailure_of_no_effect rfl (by simp)]
    rfl
  · unfold pollStep
    rw [xfer_ok hx, if_neg hx, deviceTakes_readStatus (s := sent .readStatus s) h]
    simp only [List.headD_cons, sr1_bit_zero, show (sent .readStatus s).dev = s.dev from rfl]
    cases hpd : s.dev.pending with
    | none => simp [enter, sent]
    | some op =>
      have hd : (if ¬ transactionFails s ∧ some op ≠ none then 2 else 1) = 2 := if_pos ⟨hx, by simp⟩
      simp only [Option.isSome_some, if_true, reduceCtorEq, if_false]
      by_cases ht : s.cfg.timeoutDraw = true ∧ Config.freeBool (s.draws + 1) = true
      · rw [if_pos (by simpa [sent] using ht), hd]
        simp [sent, enter, bump, ht]
      · rw [if_neg (by simpa [sent] using ht), hd]
        simp [sent, bump, hs, ht]

/-- One iteration of `DevReady` with no device present, whose status byte is a draw (R103, R115). -/
theorem pollStep_absent {l : Latch} {p : Phase} {s : State} (ready : Phase) (h : s.dev.fitted = none)
    (hs : s.seq = .run l p) :
    pollStep l ready s = { s with
      draws := s.draws + (if transactionFails s then 1
        else if (Config.freeByte (s.draws + 1)).getLsbD 0 = false then 2 else 3)
      spiLog := .readStatus :: s.spiLog
      seq := .run l
        (if transactionFails s then .finish .errSpi
        else if (Config.freeByte (s.draws + 1)).getLsbD 0 = false then ready
        else if s.cfg.timeoutDraw = true ∧ Config.freeBool (s.draws + 2) = true then .finish .errTimeout
        else p) } := by
  by_cases hx : transactionFails s
  · unfold pollStep
    rw [xfer_fail hx, if_pos hx, if_pos hx, transportFailure_of_no_effect rfl (by simp)]
    rfl
  · unfold pollStep
    rw [xfer_ok hx, if_neg hx, if_neg hx, deviceTakes_absent (s := sent .readStatus s) h]
    have hb : (freeBytes (sent .readStatus s).draws (frameIn .readStatus)).headD 0 =
      Config.freeByte (s.draws + 1) := rfl
    simp only [hb]
    cases hd : (Config.freeByte (s.draws + 1)).getLsbD 0 with
    | false => rfl
    | true =>
      by_cases ht : s.cfg.timeoutDraw = true ∧ Config.freeBool (s.draws + 2) = true
      · simp [sent, bump, enter, ht, frameIn]
      · have : (s.cfg.timeoutDraw && Config.freeBool (s.draws + 2)) = false := by simpa using ht
        simp [sent, bump, ht, hs, frameIn, this]

/-- `DevReady` on a ready device over a reliable bus. -/
theorem pollStep_ready {l : Latch} {s : State} (ready : Phase) (h : s.dev.fitted ≠ none)
    (hx : s.cfg.spiFaultDraw = false) (hp : s.dev.pending = none) :
    pollStep l ready s = enter l ready (sent .readStatus s) := by
  unfold pollStep
  rw [xfer_reliable hx, deviceTakes_readStatus (s := sent .readStatus s) h]
  simp only [List.headD_cons, sr1_bit_zero, show (sent .readStatus s).dev = s.dev from rfl, hp]
  rfl

/-! ### Mutate -/

/-- The write-enable transaction of `Mutate` on an idle fitted device (40_flash_controller.md R102, R105):
everything it can do. -/
theorem writeEnableStep_idle {l : Latch} {tmo : Budget} {op : MutOp} {rest : List MutOp} {s : State}
    (h : s.dev.fitted ≠ none) (hp : s.dev.pending = none) :
    writeEnableStep l tmo op rest s =
      if transactionFails s then { s with
        dev := { s.dev with wel := Config.freeBool (s.draws + 1) }, draws := s.draws + 2
        spiLog := .writeEnable :: s.spiLog, seq := .run l (.finish .errSpi) }
      else { s with
        dev := { s.dev with wel := true }, draws := s.draws + 1
        spiLog := .writeEnable :: s.spiLog, seq := .run l (.frame tmo op rest) } := by
  unfold writeEnableStep
  by_cases hx : transactionFails s
  · obtain ⟨id, hid⟩ := Option.ne_none_iff_exists'.1 h
    rw [xfer_fail hx, if_pos hx]
    simp [transportFailure, sent, hid, enter, bump]
  · rw [xfer_ok hx, if_neg hx, deviceTakes_writeEnable (s := sent .writeEnable s) h hp]
    rfl

/-- The write-enable transaction over a reliable bus, on an idle fitted device (40_flash_controller.md R105). -/
theorem writeEnableStep_ready {l : Latch} {tmo : Budget} {op : MutOp} {rest : List MutOp} {s : State}
    (h : s.dev.fitted ≠ none) (hx : s.cfg.spiFaultDraw = false) (hp : s.dev.pending = none) :
    writeEnableStep l tmo op rest s = { s with
      dev := { s.dev with wel := true }, draws := s.draws + 1
      spiLog := .writeEnable :: s.spiLog, seq := .run l (.frame tmo op rest) } := by
  rw [writeEnableStep_idle h hp, if_neg (by simp [hx])]

/-- The device's side of a failed program or erase frame sent to an idle fitted device (R102). -/
theorem transportFailure_mutation {f : Frame} {s : State} {op : DevOp} (h : s.dev.fitted ≠ none)
    (hp : s.dev.pending = none) (hf : frameOp s.cfg f = some op) :
    transportFailure f s = bump 2 { s with dev := { s.dev with
      pending := if Config.freeBool s.draws then some (.draws (opRange op).1 (opRange op).2) else none
      wel := Config.freeBool (s.draws + 1) } } := by
  obtain ⟨id, hid⟩ := Option.ne_none_iff_exists'.1 h
  unfold transportFailure
  rw [hid]
  cases f <;> simp_all [frameOp, devBusy]

/-- The program or erase frame of `Mutate` on an idle fitted device with WEL set (40_flash_controller.md R102, R105,
20_memory.md R71): everything it can do. -/
theorem sendMutation_idle {l : Latch} {tmo : Budget} {f : Frame} {c : Option Chunk} {rest : List MutOp}
    {s : State} {op : DevOp} (h : s.dev.fitted ≠ none) (hp : s.dev.pending = none) (hw : s.dev.wel = true)
    (hf : frameOp s.cfg f = some op) :
    sendMutation l tmo f c rest s =
      if transactionFails s then { s with
        dev := { s.dev with
          pending := if Config.freeBool (s.draws + 1) then some (.draws (opRange op).1 (opRange op).2) else none
          wel := Config.freeBool (s.draws + 2) }
        draws := s.draws + 3, spiLog := f :: s.spiLog, seq := .run l (.finish .errSpi) }
      else { s with
        dev := { s.dev with pending := some op }, draws := s.draws + 1, issued := c
        spiLog := f :: s.spiLog, seq := .run l (.postPoll tmo rest) } := by
  unfold sendMutation
  by_cases hx : transactionFails s
  · rw [xfer_fail hx, if_pos hx, transportFailure_mutation (s := sent f s) h hp hf]
    rfl
  · rw [xfer_ok hx, if_neg hx, deviceTakes_mutation (s := sent f s) h hf, acceptOp_ready (s := sent f s) hp hw]
    rfl

/-- The program or erase frame over a reliable bus, on an idle fitted device with WEL set
(40_flash_controller.md R105, 20_memory.md R71). -/
theorem sendMutation_ready {l : Latch} {tmo : Budget} {f : Frame} {c : Option Chunk} {rest : List MutOp}
    {s : State} {op : DevOp} (h : s.dev.fitted ≠ none) (hx : s.cfg.spiFaultDraw = false)
    (hp : s.dev.pending = none) (hw : s.dev.wel = true) (hf : frameOp s.cfg f = some op) :
    sendMutation l tmo f c rest s = { s with
      dev := { s.dev with pending := some op }, draws := s.draws + 1, issued := c
      spiLog := f :: s.spiLog, seq := .run l (.postPoll tmo rest) } := by
  rw [sendMutation_idle h hp hw hf, if_neg (by simp [hx])]

/-- With no host write in the chunk, the frame's data are the chunk's DBUF bytes. -/
theorem chunkData_of_raced_nil {c : Chunk} {s : State} (h : s.raced = []) :
    chunkData c s = dbufBytes s.dbuf c.boff c.len := by
  simp [chunkData, h, dbufBytes]

theorem chunkData_length (c : Chunk) (s : State) : (chunkData c s).length = c.len := by simp [chunkData]

/-- The program frame of a chunk over a reliable bus, on an idle fitted device with WEL set, with defined bytes
and no host write in the command's range (40_flash_controller.md R109). -/
theorem frameStep_program_ready {l : Latch} {tmo : Budget} {c : Chunk} {rest : List MutOp} {s : State}
    (h : s.dev.fitted ≠ none) (hx : s.cfg.spiFaultDraw = false) (hp : s.dev.pending = none)
    (hw : s.dev.wel = true) (hr : s.raced = []) (hd : dbufDefined s.dbuf c.boff c.len = true)
    (hc : c.addr < Config.flashSize) (hwf : configWellFormed s.cfg = true) :
    frameStep l tmo (.program c) rest s = .next { s with
      dev := { s.dev with pending := some (.program c.addr (dbufBytes s.dbuf c.boff c.len)) }
      draws := s.draws + 1, issued := some c
      spiLog := .pageProgram (BitVec.ofNat 32 c.addr) (dbufBytes s.dbuf c.boff c.len) :: s.spiLog
      seq := .run l (.postPoll tmo rest) } := by
  simp only [frameStep, hd, if_true, hr, List.isEmpty_nil, chunkData_of_raced_nil hr]
  rw [sendMutation_ready h hx hp hw rfl, arrayAddr_sentAddr_ofNat hwf hc, hr]

end Sys2Proof.Machine
end

