-- ==== Sys2Proof/Laws/Device.lean ====
section
/-! SUPPORT. What an operation does to the flash array, byte by byte (20_memory.md R67-R71,
70_reset_and_hazards.md R156). -/

namespace Sys2Proof.Machine

open Sys2Proof.Safety

theorem opRange_le {op : DevOp} (h : opOk op) : (opRange op).1 ≤ (opRange op).2 := by
  cases op with
  | program a d => exact Nat.le_add_right _ _
  | erase lo hi => exact h.1
  | draws lo hi => exact h.1

theorem opRange_le_flashSize {op : DevOp} (h : opOk op) : (opRange op).2 ≤ Config.flashSize := by
  cases op with
  | program a d => exact h.2
  | erase lo hi => exact h.2
  | draws lo hi => exact h.2

theorem opAddrs_eq_range' {op : DevOp} (h : opOk op) :
    opAddrs op = List.range' (opRange op).1 ((opRange op).2 - (opRange op).1) := by
  cases op with
  | program a d => rw [opAddrs_program h.1]; simp [opRange]
  | erase lo hi => rfl
  | draws lo hi => rfl

/-- An interrupted operation, byte by byte. -/
theorem flashRead_drawRange {op : DevOp} (h : opOk op) (s : State) (x : Nat) :
    flashRead (drawRange op s).dev.flash x =
      if (opRange op).1 ≤ x ∧ x < (opRange op).2 then Config.freeByte (s.draws + (x - (opRange op).1))
      else flashRead s.dev.flash x := by
  have hle := opRange_le h
  show flashRead (flashWriteAt s.dev.flash (opAddrs op) (freeBytes s.draws (opAddrs op).length)) x = _
  rw [opAddrs_eq_range' h, List.length_range', flashRead_flashWriteAt_range _ _ _ _ (freeBytes_length ..)]
  by_cases hx : (opRange op).1 ≤ x ∧ x < (opRange op).2
  · rw [dif_pos (by omega), if_pos hx, freeBytes_getElem]
  · rw [dif_neg (by omega), if_neg hx]

theorem programErased_iff {m : Memory} {a : Nat} {d : List Byte} (h : opOk (.program a d)) :
    programErased m a d = true ↔ ∀ j < d.length, flashRead m (a + j) = Config.erasedByte := by
  unfold programErased
  rw [opAddrs_program h.1]
  simp only [List.all_eq_true, beq_iff_eq, List.mem_range'_1]
  constructor
  · intro h j hj
    exact h _ ⟨by omega, by omega⟩
  · intro h x hx
    have := h (x - a) (by omega)
    rwa [Nat.add_sub_cancel' hx.1] at this

/-- A program of an erased range, byte by byte (20_memory.md R68). -/
theorem flashRead_applyOp_program {a : Nat} {d : List Byte} {s : State} (h : opOk (.program a d))
    (he : programErased s.dev.flash a d = true) (x : Nat) :
    flashRead (applyOp (.program a d) s).dev.flash x =
      if a ≤ x ∧ x < a + d.length then d.getD (x - a) 0 else flashRead s.dev.flash x := by
  have hf : (applyOp (.program a d) s).dev.flash = flashWriteAt s.dev.flash (List.range' a d.length) d := by
    rw [← opAddrs_program h.1]
    unfold applyOp
    simp [he]
  rw [hf, flashRead_flashWriteAt_range _ _ _ _ rfl]
  by_cases hx : a ≤ x ∧ x < a + d.length
  · rw [dif_pos hx, if_pos hx, List.getD_eq_getElem?_getD, List.getElem?_eq_getElem (by omega)]
    rfl
  · rw [dif_neg hx, if_neg hx]

/-- The completion step on an unprotected device (20_memory.md R71). -/
theorem deviceStep_unprotected {op : DevOp} {s : State} (hp : s.dev.pending = some op)
    (h : devUnprotected s.dev = true) : deviceStep s = settleDevice (applyOp op s) := by
  unfold deviceStep
  rw [hp]
  simp [h]

/-- The completion step on a protected device (20_memory.md R74): a draw decides between the effect and none. -/
theorem deviceStep_protected {op : DevOp} {s : State} (hp : s.dev.pending = some op)
    (h : devUnprotected s.dev = false) : deviceStep s =
      settleDevice (if Config.freeBool s.draws then bump 1 s else applyOp op (bump 1 s)) := by
  unfold deviceStep
  rw [hp]
  simp only [h, Bool.false_eq_true, if_false]
  split <;> rfl

/-- An operation changes the draw index and the array, and nothing else. -/
theorem applyOp_frame (op : DevOp) (s : State) : applyOp op s =
    { s with draws := (applyOp op s).draws, dev := { s.dev with flash := (applyOp op s).dev.flash } } := by
  unfold applyOp
  split
  · split <;> rfl
  · rfl
  · rfl

/-- An operation leaves every byte outside its range alone. -/
theorem flashRead_applyOp_outside {op : DevOp} (h : opOk op) (s : State) {x : Nat}
    (hx : x < (opRange op).1 ∨ (opRange op).2 ≤ x) :
    flashRead (applyOp op s).dev.flash x = flashRead s.dev.flash x := by
  cases op with
  | erase lo hi =>
    simp only [opRange] at hx
    simp only [applyOp, flashRead_memClear]
    rw [if_neg (by omega)]
  | draws lo hi =>
    simp only [applyOp]
    rw [flashRead_drawRange h, if_neg (by omega)]
  | program a d =>
    by_cases he : programErased s.dev.flash a d = true
    · simp only [opRange] at hx
      rw [flashRead_applyOp_program h he, if_neg (by omega)]
    · simp only [applyOp, he, Bool.false_eq_true, if_false]
      rw [flashRead_drawRange h, if_neg (by omega)]

theorem deviceStep_idle {s : State} (hp : s.dev.pending = none) : deviceStep s = s := by
  unfold deviceStep
  rw [hp]

end Sys2Proof.Machine
end

