-- ==== Sys2Proof/Laws/Bus.lean ====
section
/-! SUPPORT. What a host access does: the regions at the stated sizes (20_memory.md R55-R58), a store outside the
running command's range, the draw a racing write makes (70_reset_and_hazards.md R163), and a store of several bytes. -/

namespace Sys2Proof.Machine

theorem statedSizes_iff {c : Config} : statedSizes c = true ↔
    c.dbufSize = 4096 ∧ c.hostBusBits = 32 ∧ c.registerBits = 32 ∧ c.spiAddrBits = 24 := by
  simp [statedSizes, and_assoc]

/-- A word access carries the whole word. -/
@[simp] theorem busValue_word (v : Word) : busValue .word v = v := rfl

/-- The register region takes aligned words (20_memory.md R57). -/
theorem regionAt_register {c : Config} (h : statedSizes c = true) {off : Nat} (ho : off < 0x40) (hm : off % 4 = 0)
    {r : Reg} (hr : regAt off = some r) : regionAt c off .word = .reg r := by
  obtain ⟨-, h2, h3, -⟩ := statedSizes_iff.1 h
  simp [regionAt, h2, h3, widthBytes, ho, hm, hr]

/-- The DBUF window takes naturally aligned accesses of every width (20_memory.md R57). -/
theorem regionAt_dbuf {c : Config} (h : statedSizes c = true) {i : Nat} {w : Width} (hi : i < 4096)
    (hm : i % widthBytes w = 0) : regionAt c (0x1000 + i) w = .dbuf i := by
  obtain ⟨h1, h2, -, -⟩ := statedSizes_iff.1 h
  have hw : ¬ 32 < 8 * widthBytes w := by cases w <;> decide
  unfold regionAt
  rw [h1, h2, if_neg hw, if_neg (by omega), if_pos (by omega), if_pos]
  · rw [Nat.add_sub_cancel_left]
  · cases w <;> simp only [widthBytes] at hm ⊢ <;> omega

/-- A byte in W is in the running command's range. -/
theorem inReadDestination_of_not_inBusyRange {s : State} {x : Nat} (h : inBusyRange s x = false) :
    inReadDestination s x = false := by
  unfold inBusyRange at h
  unfold inReadDestination
  split
  · next l hl => rw [hl] at h; exact h
  · rfl

/-- A store that meets no byte of the running command's range changes DBUF only. -/
theorem hostStore_of_not_inBusyRange (vs : List Byte) (i : Nat) (s : State)
    (h : ∀ k < vs.length, inBusyRange s (i + k) = false) :
    hostStore i vs s = { s with dbuf := dbufStore s.dbuf i vs } := by
  induction vs generalizing i s with
  | nil => rfl
  | cons v vs ih =>
    have h0 : inBusyRange { s with dbuf := memSet s.dbuf i v } i = false := h 0 (by simp)
    rw [hostStore, raceWrite, if_neg (by rw [h0]; simp), ih, dbufStore]
    intro k hk
    have hk' := h (k + 1) (by simpa using hk)
    rw [show i + 1 + k = i + (k + 1) by omega]
    exact hk'

/-! ### The draw of a racing write -/

/-- A racing write changes the draw index and the device, and nothing else. -/
theorem redrawIssued_frame (x : Nat) (s : State) :
    redrawIssued x s = { s with draws := (redrawIssued x s).draws, dev := (redrawIssued x s).dev } := by
  unfold redrawIssued redrawProgram redrawFlash
  split
  · split
    · split
      · split <;> rfl
      · rfl
    · rfl
  · rfl

/-- No program frame of the command has carried the byte: its draw is the frame's. -/
theorem redrawIssued_of_not_sent {x : Nat} {s : State}
    (h : programLatch s = none ∨ s.issued = none ∨ ∃ c, s.issued = some c ∧ c.boff + c.len ≤ x) :
    redrawIssued x s = s := by
  unfold redrawIssued
  rcases h with h | h | ⟨c, hc, hl⟩
  · rw [h]
  · rw [h]; cases programLatch s <;> rfl
  · rw [hc]
    cases programLatch s
    · rfl
    · exact if_neg (by omega)

theorem redrawIssued_of_sent {x : Nat} {s : State} {l : Latch} {c : Chunk} (hl : programLatch s = some l)
    (hc : s.issued = some c) (hx : x < c.boff + c.len) : redrawIssued x s = redrawProgram l c x s := by
  unfold redrawIssued
  rw [hl, hc]
  exact if_pos hx

/-- The program of the byte's chunk is pending. -/
theorem redrawProgram_of_pending {l : Latch} {c : Chunk} {x a : Nat} {d : List Byte} {s : State}
    (hp : s.dev.pending = some (.program a d)) (hx : c.boff ≤ x) :
    redrawProgram l c x s = { s with
      draws := s.draws + 1
      dev := { s.dev with pending := some (.program a (d.set (x - c.boff) (Config.freeByte s.draws))) } } := by
  unfold redrawProgram
  rw [hp]
  exact if_pos hx

/-- The program of the byte's chunk has completed. -/
theorem redrawProgram_of_completed {l : Latch} {c : Chunk} {x : Nat} {s : State}
    (h : (∀ a d, s.dev.pending ≠ some (.program a d)) ∨ x < c.boff) :
    redrawProgram l c x s = redrawFlash (arrayAddr (flashAddr l + (x - dbufOffset l))) s := by
  unfold redrawProgram
  split
  · next a d hp =>
    rw [if_neg]
    rcases h with h | h
    · exact absurd hp (h a d)
    · omega
  · rfl

/-- One byte of the array becomes a draw. -/
theorem flashRead_redrawFlash (a x : Nat) (s : State) :
    flashRead (redrawFlash a s).dev.flash x = if a = x then Config.freeByte s.draws else flashRead s.dev.flash x :=
  flashRead_flashWrite _ _ _ _

/-! ### Stores of several bytes -/

/-- A store in two parts is the store of the first part and then of the second. -/
theorem hostStore_append (us vs : List Byte) (i : Nat) (s : State) :
    hostStore i (us ++ vs) s = hostStore (i + us.length) vs (hostStore i us s) := by
  induction us generalizing i s with
  | nil => rfl
  | cons u us ih =>
    rw [List.cons_append, hostStore, ih, hostStore, List.length_cons]
    congr 1
    omega

/-- A store writes its bytes, and changes nothing else but the set of raced bytes, the draw index and the device. -/
theorem hostStore_frame (vs : List Byte) (i : Nat) (s : State) :
    hostStore i vs s = { s with
      dbuf := dbufStore s.dbuf i vs, raced := (hostStore i vs s).raced
      draws := (hostStore i vs s).draws, dev := (hostStore i vs s).dev } := by
  induction vs generalizing i s with
  | nil => rfl
  | cons v vs ih =>
    have h : raceWrite i { s with dbuf := memSet s.dbuf i v } = { s with
        dbuf := memSet s.dbuf i v, raced := (raceWrite i { s with dbuf := memSet s.dbuf i v }).raced
        draws := (raceWrite i { s with dbuf := memSet s.dbuf i v }).draws
        dev := (raceWrite i { s with dbuf := memSet s.dbuf i v }).dev } := by
      unfold raceWrite
      split
      · rw [redrawIssued_frame]
      · rfl
    rw [hostStore, ih, h]
    rfl

/-- A store records its bytes in the running command's range as raced (70_reset_and_hazards.md R163). -/
theorem mem_hostStore_raced (vs : List Byte) (i : Nat) (s : State) (y : Nat) :
    y ∈ (hostStore i vs s).raced ↔
      y ∈ s.raced ∨ ((i ≤ y ∧ y < i + vs.length) ∧ inBusyRange s y = true) := by
  induction vs generalizing i s with
  | nil => simp only [hostStore, List.length_nil]; exact ⟨.inl, fun h => h.elim id fun h => by omega⟩
  | cons v vs ih =>
    have hb : inBusyRange (raceWrite i { s with dbuf := memSet s.dbuf i v }) y = inBusyRange s y := by
      unfold raceWrite
      split
      · rw [redrawIssued_frame]; rfl
      · rfl
    have hm : y ∈ (raceWrite i { s with dbuf := memSet s.dbuf i v }).raced ↔
        y ∈ s.raced ∨ (y = i ∧ inBusyRange s i = true) := by
      unfold raceWrite
      have hs : inBusyRange { s with dbuf := memSet s.dbuf i v } i = inBusyRange s i := rfl
      rw [hs]
      split
      · next h =>
        rw [redrawIssued_frame]
        dsimp only
        split
        · next hc =>
          have := List.contains_iff_mem.1 hc
          constructor
          · exact .inl
          · rintro (h | ⟨rfl, -⟩) <;> assumption
        · simp [h, or_comm]
      · next h => simp [h]
    rw [hostStore, ih, hb, hm, List.length_cons]
    constructor
    · rintro ((h | ⟨rfl, h⟩) | ⟨h1, h2⟩)
      · exact .inl h
      · exact .inr ⟨by omega, h⟩
      · exact .inr ⟨by omega, h2⟩
    · rintro (h | ⟨h1, h2⟩)
      · exact .inl (.inl h)
      · by_cases hy : y = i
        · exact .inl (.inr ⟨hy, hy ▸ h2⟩)
        · exact .inr ⟨by omega, h2⟩

/-- An aligned host write of any width to DBUF stores its bytes (20_memory.md R56). -/
theorem hostStep_write_dbuf {s : State} (h : statedSizes s.cfg = true) {x : Nat} {w : Width} (v : Word)
    (hx : x < 4096) (hm : x % widthBytes w = 0) :
    hostStep (.write (0x1000 + x) w v) s = .next (hostStore x (valueBytes v w) s) := by
  show hostWrite _ _ _ _ = _
  rw [hostWrite, regionAt_dbuf h hx hm]

/-- The bytes of a shifted word. -/
theorem byteOf_ushiftRight (v : Word) (n k : Nat) : byteOf (v >>> (8 * n)) k = byteOf v (n + k) := by
  apply BitVec.eq_of_getLsbD_eq
  intro i hi
  simp only [byteOf, BitVec.getLsbD_extractLsb', BitVec.getLsbD_ushiftRight, hi, decide_true, Bool.true_and]
  congr 1
  omega

/-- A little-endian word holds its bytes, and nothing above them (20_memory.md R61). -/
theorem leWord_extractLsb' (vs : List Byte) (h : vs.length ≤ 4) (k : Nat) (hk : k < vs.length) :
    (leWord vs).extractLsb' (8 * k) 8 = vs[k] := by
  induction vs generalizing k with
  | nil => exact absurd hk (by simp)
  | cons v vs ih =>
    have hl : vs.length + 1 ≤ 4 := h
    apply BitVec.eq_of_getLsbD_eq
    intro i hi
    cases k with
    | zero =>
      simp only [leWord, BitVec.getLsbD_extractLsb', BitVec.getLsbD_or, BitVec.getLsbD_shiftLeft, BitVec.getLsbD_setWidth,
        List.getElem_cons_zero, Nat.mul_zero, Nat.zero_add]
      simp [hi, show i < 32 by omega]
    | succ k =>
      have hk' : k < vs.length := by simpa using hk
      rw [List.getElem_cons_succ, ← ih (by omega) k hk']
      simp only [leWord, BitVec.getLsbD_extractLsb', BitVec.getLsbD_or, BitVec.getLsbD_shiftLeft, BitVec.getLsbD_setWidth]
      have h1 : 8 * (k + 1) + i - 8 = 8 * k + i := by omega
      have h2 : v.getLsbD (8 * (k + 1) + i) = false := BitVec.getLsbD_of_ge _ _ (by omega)
      rw [h1, h2]
      simp [hi, show 8 * (k + 1) + i < 32 by omega, show ¬ 8 * (k + 1) + i < 8 by omega]

theorem leWord_toNat_lt (vs : List Byte) (h : vs.length ≤ 4) : (leWord vs).toNat < 2 ^ (8 * vs.length) := by
  apply Nat.lt_pow_two_of_testBit
  intro i hi
  rw [← BitVec.getLsbD]
  induction vs generalizing i with
  | nil => simp [leWord]
  | cons v vs ih =>
    have hl : vs.length + 1 ≤ 4 := h
    have hi' : 8 * (vs.length + 1) ≤ i := hi
    simp only [leWord, BitVec.getLsbD_or, BitVec.getLsbD_shiftLeft, BitVec.getLsbD_setWidth]
    rw [ih (by omega) (i - 8) (by omega), BitVec.getLsbD_of_ge v i (by omega)]
    simp

end Sys2Proof.Machine
end

