-- ==== Sys2Proof/Laws/Crc.lean ====
section
/-! SUPPORT. The CRC loop is linear over xor and loses no information (41_crc_validator.md R119). -/

namespace Sys2Proof.Machine

theorem crcBit_xor (c d : Word) : crcBit (c ^^^ d) = crcBit c ^^^ crcBit d := by
  unfold crcBit
  have hs : (c ^^^ d) >>> 1 = (c >>> 1) ^^^ (d >>> 1) := by
    apply BitVec.eq_of_getLsbD_eq
    intro i hi
    simp
  rw [BitVec.getLsbD_xor, hs]
  generalize c >>> 1 = x
  generalize d >>> 1 = y
  cases c.getLsbD 0 <;> cases d.getLsbD 0 <;> simp
  · rw [BitVec.xor_assoc]
  · rw [BitVec.xor_assoc, BitVec.xor_assoc, BitVec.xor_comm y]
  · have : ∀ p : Word, x ^^^ p ^^^ (y ^^^ p) = x ^^^ y := by
      intro p
      rw [BitVec.xor_comm y p, ← BitVec.xor_assoc, BitVec.xor_assoc x p p]
      simp
    exact (this _).symm

theorem crcBits_xor (k : Nat) (c d : Word) : crcBits k (c ^^^ d) = crcBits k c ^^^ crcBits k d := by
  induction k generalizing c d with
  | zero => rfl
  | succ k ih => rw [crcBits, crcBits, crcBits, crcBit_xor, ih]

/-- While the low bits are 0 the loop only shifts. -/
theorem crcBits_of_low_zero (k : Nat) (c : Word) (h : ∀ i < k, c.getLsbD i = false) : crcBits k c = c >>> k := by
  induction k generalizing c with
  | zero => simp [crcBits]
  | succ k ih =>
    have hc : crcBit c = c >>> 1 := by
      unfold crcBit
      rw [h 0 (by omega)]
      rfl
    rw [crcBits, hc, ih]
    · rw [← BitVec.shiftRight_add, Nat.add_comm]
    · intro i hi
      rw [BitVec.getLsbD_ushiftRight]
      exact h _ (by omega)

theorem crcBit_eq_zero {x : Word} (hx : crcBit x = 0#32) : x = 0#32 := by
  unfold crcBit at hx
  split at hx
  · exfalso
    have h31 := congrArg (fun y : Word => y.getLsbD 31) hx
    have hp : Config.crcPoly.getLsbD 31 = true := by decide
    simp only [BitVec.getLsbD_xor, BitVec.getLsbD_ushiftRight, hp] at h31
    simp at h31
  · rename_i h0
    apply BitVec.eq_of_getLsbD_eq
    intro i hi
    rcases i with _ | i
    · simpa using h0
    · have := congrArg (fun y : Word => y.getLsbD i) hx
      simp only [BitVec.getLsbD_ushiftRight] at this
      rw [Nat.add_comm, this]
      simp

theorem crcBit_injective {c d : Word} (h : crcBit c = crcBit d) : c = d := by
  have h0 : crcBit (c ^^^ d) = 0#32 := by rw [crcBit_xor, h, BitVec.xor_self]
  exact BitVec.xor_eq_zero_iff.1 (crcBit_eq_zero h0)

theorem crcBits_injective (k : Nat) {c d : Word} (h : crcBits k c = crcBits k d) : c = d := by
  induction k generalizing c d with
  | zero => exact h
  | succ k ih => exact crcBit_injective (ih h)

/-- The update is one to one in the state. -/
theorem crcUpdate_injective (v : Byte) {c d : Word} (h : crcUpdate c v = crcUpdate d v) : c = d := by
  have := congrArg (· ^^^ v.setWidth 32) (crcBits_injective 8 h)
  simpa [BitVec.xor_assoc] using this

/-- Feeding the same bytes is one to one in the state. -/
theorem crcFeed_injective (vs : List Byte) {c d : Word} (h : crcFeed c vs = crcFeed d vs) : c = d := by
  induction vs generalizing c d with
  | nil => exact h
  | cons v vs ih => exact crcUpdate_injective v (ih h)

theorem crcFeed_append (c : Word) (us vs : List Byte) : crcFeed c (us ++ vs) = crcFeed (crcFeed c us) vs :=
  List.foldl_append

end Sys2Proof.Machine
end

