-- ==== Sys2Proof/Laws/Operands.lean ====
section
/-! SUPPORT. The recursion equation of the chunk split (40_flash_controller.md R110). -/

namespace Sys2Proof.Machine

theorem chunksUpTo_of_le (f g a b n : Nat) (hf : n ≤ f) (hg : n ≤ g) :
    chunksUpTo f a b n = chunksUpTo g a b n := by
  induction f generalizing g a b n with
  | zero =>
    obtain rfl : n = 0 := by omega
    cases g <;> simp [chunksUpTo]
  | succ f ih =>
    cases g with
    | zero =>
      obtain rfl : n = 0 := by omega
      simp [chunksUpTo]
    | succ g =>
      unfold chunksUpTo
      split
      · rfl
      · have := Nat.mod_lt a (show 0 < Config.pageSize by decide)
        simp only
        rw [ih g _ _ _ (by omega) (by omega)]

theorem chunks_zero (a b : Nat) : chunks a b 0 = [] := rfl

theorem chunks_cons {a b n : Nat} (h : 0 < n) : chunks a b n =
    { addr := a, boff := b, len := min n (Config.pageSize - a % Config.pageSize) } ::
      chunks (a + min n (Config.pageSize - a % Config.pageSize)) (b + min n (Config.pageSize - a % Config.pageSize))
        (n - min n (Config.pageSize - a % Config.pageSize)) := by
  have := Nat.mod_lt a (show 0 < Config.pageSize by decide)
  obtain ⟨n, rfl⟩ := Nat.exists_eq_succ_of_ne_zero (Nat.pos_iff_ne_zero.1 h)
  conv => lhs; unfold chunks chunksUpTo
  rw [if_neg (by omega)]
  unfold chunks
  dsimp only
  rw [chunksUpTo_of_le _ (n.succ - min n.succ (Config.pageSize - a % Config.pageSize)) _ _ _ (by omega) (by omega)]

end Sys2Proof.Machine
end

