-- ==== Sys2Proof/Laws/PerInstr.lean ====
section
/-! SUPPORT. The laws of single commands as syntax: one lemma per constructor of `Instr`. -/

namespace Sys2Proof.Laws.RoundTrip

/-- The command's word has RSVD = 0 and an assigned opcode, and decodes to the command (30_encoding.md R87-R89). -/
def Statement (i : Instr) : Prop := instrWellFormed i = true ∧ decode (encode i) = .ok i

theorem nop : Statement .nop := by unfold Statement; decide
theorem read : Statement .read := by unfold Statement; decide
theorem progPage : Statement .progPage := by unfold Statement; decide
theorem write : Statement .write := by unfold Statement; decide
theorem eraseSector : Statement .eraseSector := by unfold Statement; decide
theorem eraseBlock : Statement .eraseBlock := by unfold Statement; decide
theorem eraseChip : Statement .eraseChip := by unfold Statement; decide
theorem readId : Statement .readId := by unfold Statement; decide
theorem crcInit : Statement .crcInit := by unfold Statement; decide
theorem crcBuf : Statement .crcBuf := by unfold Statement; decide
theorem validateRecord : Statement .validateRecord := by unfold Statement; decide
theorem validateHeader : Statement .validateHeader := by unfold Statement; decide

end Sys2Proof.Laws.RoundTrip
end

