-- ==== Sys2Proof/Laws/Run.lean ====
section
/-! SUPPORT. No agent reads or writes the agenda, so a schedule of moves can be played move by move. -/

namespace Sys2Proof.Machine

open Sys2Proof.Safety

/-- The state with another agenda. -/
def setAgenda (ms : List Move) (s : State) : State := { s with agenda := ms }

/-- An outcome with its next state changed by `f`. -/
def mapNext (f : State → State) : Result → Result
  | .next t => .next (f t)
  | .fault e => .fault e
  | .refused r => .refused r

theorem setAgenda_self (s : State) : setAgenda s.agenda s = s := rfl

theorem transportFailure_setAgenda (f : Frame) (ms : List Move) (s : State) :
    transportFailure f (setAgenda ms s) = setAgenda ms (transportFailure f s) := by
  unfold transportFailure setAgenda
  dsimp only
  split
  · rfl
  · rfl
  · split
    · rfl
    · split <;> rfl

theorem acceptOp_setAgenda (op : DevOp) (ms : List Move) (s : State) :
    acceptOp op (setAgenda ms s) = setAgenda ms (acceptOp op s) := by
  unfold acceptOp setAgenda
  dsimp only
  split <;> rfl

theorem deviceTakes_setAgenda (f : Frame) (ms : List Move) (s : State) :
    deviceTakes f (setAgenda ms s) = ((deviceTakes f s).1, setAgenda ms (deviceTakes f s).2) := by
  have hfit : (setAgenda ms s).dev = s.dev := rfl
  have hcfg : (setAgenda ms s).cfg = s.cfg := rfl
  unfold deviceTakes
  rw [hfit, hcfg]
  cases s.dev.fitted with
  | none => rfl
  | some id =>
    cases f with
    | readStatus => rfl
    | writeEnable => dsimp only; split <;> rfl
    | read a n => dsimp only; split <;> rfl
    | jedecId => dsimp only; split <;> rfl
    | pageProgram a d => exact Prod.ext rfl (acceptOp_setAgenda _ ms s)
    | sectorErase a => exact Prod.ext rfl (acceptOp_setAgenda _ ms s)
    | blockErase a => exact Prod.ext rfl (acceptOp_setAgenda _ ms s)
    | chipErase => exact Prod.ext rfl (acceptOp_setAgenda _ ms s)

theorem xfer_setAgenda (f : Frame) (ms : List Move) (s : State) :
    xfer f (setAgenda ms s) = ((xfer f s).1, setAgenda ms (xfer f s).2) := by
  by_cases h : transactionFails s
  · rw [xfer_fail h, xfer_fail (s := setAgenda ms s) h]
    exact Prod.ext rfl (transportFailure_setAgenda f ms (sent f s))
  · rw [xfer_ok h, xfer_ok (s := setAgenda ms s) h]
    have := deviceTakes_setAgenda f ms (sent f s)
    exact Prod.ext (congrArg (fun r => some r.1) this) (congrArg (fun r => r.2) this)

theorem pollStep_setAgenda (l : Latch) (p : Phase) (ms : List Move) (s : State) :
    pollStep l p (setAgenda ms s) = setAgenda ms (pollStep l p s) := by
  unfold pollStep
  rw [xfer_setAgenda]
  rcases xfer .readStatus s with ⟨_ | r, t⟩
  · rfl
  · dsimp only
    split
    · have h : (setAgenda ms t).cfg = t.cfg ∧ (setAgenda ms t).draws = t.draws := ⟨rfl, rfl⟩
      rw [h.1, h.2]
      split <;> rfl
    · rfl

theorem sendMutation_setAgenda (l : Latch) (tmo : Budget) (f : Frame) (c : Option Chunk) (rest : List MutOp)
    (ms : List Move) (s : State) :
    sendMutation l tmo f c rest (setAgenda ms s) = setAgenda ms (sendMutation l tmo f c rest s) := by
  unfold sendMutation
  rw [xfer_setAgenda]
  rcases xfer f s with ⟨_ | r, t⟩ <;> rfl

theorem frameStep_setAgenda (l : Latch) (tmo : Budget) (op : MutOp) (rest : List MutOp) (ms : List Move)
    (s : State) : frameStep l tmo op rest (setAgenda ms s) = mapNext (setAgenda ms) (frameStep l tmo op rest s) := by
  cases op with
  | erase u base => exact congrArg Host.Outcome.next (sendMutation_setAgenda _ _ _ _ _ ms s)
  | program c =>
    have h : (setAgenda ms s).dbuf = s.dbuf ∧ (setAgenda ms s).raced = s.raced := ⟨rfl, rfl⟩
    have hc : chunkData c (setAgenda ms s) = chunkData c s := rfl
    unfold frameStep
    dsimp only
    rw [h.1, h.2, hc]
    split
    · refine congrArg Host.Outcome.next ?_
      split
      · exact sendMutation_setAgenda _ _ _ _ _ ms s
      · exact sendMutation_setAgenda _ _ _ _ _ ms (bump c.len s)
    · rfl

theorem microStep_setAgenda (i : Instr) (l : Latch) (p : Phase) (ms : List Move) (s : State) :
    microStep i l p (setAgenda ms s) = mapNext (setAgenda ms) (microStep i l p s) := by
  cases p with
  | decode => rfl
  | check => rfl
  | prePoll tmo job => exact congrArg Host.Outcome.next (pollStep_setAgenda _ _ ms s)
  | receive a n b =>
    refine congrArg Host.Outcome.next ?_
    show receiveStep l a n b (setAgenda ms s) = setAgenda ms (receiveStep l a n b s)
    unfold receiveStep
    rw [xfer_setAgenda]
    rcases xfer (.read (BitVec.ofNat 32 a) n) s with ⟨_ | r, t⟩ <;> rfl
  | deposit b bytes code => rfl
  | identify =>
    refine congrArg Host.Outcome.next ?_
    show identifyStep l (setAgenda ms s) = setAgenda ms (identifyStep l s)
    unfold identifyStep
    rw [xfer_setAgenda]
    rcases xfer .jedecId s with ⟨_ | r, t⟩
    · rfl
    · have h : (setAgenda ms t).cfg = t.cfg := rfl
      dsimp only
      rw [h]
      split <;> rfl
  | writeEnable tmo op rest =>
    refine congrArg Host.Outcome.next ?_
    show writeEnableStep l tmo op rest (setAgenda ms s) = setAgenda ms (writeEnableStep l tmo op rest s)
    unfold writeEnableStep
    rw [xfer_setAgenda]
    rcases xfer .writeEnable s with ⟨_ | r, t⟩ <;> rfl
  | frame tmo op rest => exact frameStep_setAgenda l tmo op rest ms s
  | postPoll tmo rest => exact congrArg Host.Outcome.next (pollStep_setAgenda _ _ ms s)
  | seed => rfl
  | feed k =>
    show feedStep l k (setAgenda ms s) = mapNext (setAgenda ms) (feedStep l k s)
    have h : (setAgenda ms s).dbuf = s.dbuf := rfl
    unfold feedStep
    rw [h]
    split
    · cases memGet s.dbuf (dbufOffset l + k) <;> rfl
    · rfl
  | judge img =>
    show judgeStep l img (setAgenda ms s) = mapNext (setAgenda ms) (judgeStep l img s)
    have h : (setAgenda ms s).dbuf = s.dbuf := rfl
    unfold judgeStep
    rw [h]
    split <;> rfl
  | finish code =>
    refine congrArg Host.Outcome.next ?_
    have hr : (setAgenda ms s).raced = s.raced := rfl
    cases i <;> dsimp only [settleOf] <;>
      first
        | rfl
        | (unfold settleCrc; rw [hr]; split <;> rfl)
        | (unfold settleValidate; rw [hr]; split <;> rfl)

theorem runIllegal_run {s : State} {l : Latch} {p : Phase} (h : s.seq = .run l p) :
    runIllegal s = if p = .decode ∨ p = .check then .next (enter l (.finish .errOpcode) s) else microStep .nop l p s := by
  unfold runIllegal runCommand
  rw [h]
  cases p <;> rfl

theorem sequencerStep_setAgenda (ms : List Move) (s : State) :
    sequencerStep (setAgenda ms s) = mapNext (setAgenda ms) (sequencerStep s) := by
  unfold sequencerStep
  have h : (setAgenda ms s).seq = s.seq := rfl
  rw [h]
  cases hs : s.seq with
  | idle => rfl
  | run l p =>
    dsimp only
    cases hd : decode l.opw with
    | ok i =>
      dsimp only
      rw [exec_run i hs, exec_run i (h.trans hs)]
      exact microStep_setAgenda i l p ms s
    | error e =>
      dsimp only
      rw [runIllegal_run hs, runIllegal_run (h.trans hs)]
      split
      · rfl
      · exact microStep_setAgenda _ _ _ ms s

theorem redrawProgram_setAgenda (l : Latch) (c : Chunk) (x : Nat) (ms : List Move) (s : State) :
    redrawProgram l c x (setAgenda ms s) = setAgenda ms (redrawProgram l c x s) := by
  have h : (setAgenda ms s).dev = s.dev := rfl
  unfold redrawProgram
  rw [h]
  split
  · split <;> rfl
  · rfl

theorem redrawIssued_setAgenda (x : Nat) (ms : List Move) (s : State) :
    redrawIssued x (setAgenda ms s) = setAgenda ms (redrawIssued x s) := by
  have h : (setAgenda ms s).issued = s.issued ∧ programLatch (setAgenda ms s) = programLatch s := ⟨rfl, rfl⟩
  unfold redrawIssued
  rw [h.1, h.2]
  split
  · split
    · exact redrawProgram_setAgenda _ _ _ ms s
    · rfl
  · rfl

theorem raceWrite_setAgenda (x : Nat) (ms : List Move) (s : State) :
    raceWrite x (setAgenda ms s) = setAgenda ms (raceWrite x s) := by
  have h : inBusyRange (setAgenda ms s) x = inBusyRange s x := rfl
  unfold raceWrite
  rw [h]
  split
  · exact redrawIssued_setAgenda x ms { s with raced := if s.raced.contains x then s.raced else x :: s.raced }
  · rfl

theorem hostStore_setAgenda (vs : List Byte) (i : Nat) (ms : List Move) (s : State) :
    hostStore i vs (setAgenda ms s) = setAgenda ms (hostStore i vs s) := by
  induction vs generalizing i s with
  | nil => rfl
  | cons v vs ih =>
    rw [hostStore, hostStore, ← ih]
    exact congrArg _ (raceWrite_setAgenda i ms { s with dbuf := memSet s.dbuf i v })

theorem hostStep_setAgenda (acc : Access) (ms : List Move) (s : State) :
    hostStep acc (setAgenda ms s) = mapNext (setAgenda ms) (hostStep acc s) := by
  cases acc with
  | read off w =>
    show hostRead off w _ = mapNext _ (hostRead off w s)
    unfold hostRead
    have hc : (setAgenda ms s).cfg = s.cfg := rfl
    rw [hc]
    have h : hostBytes (setAgenda ms s) = hostBytes s := rfl
    have h2 : hostReadDraws (setAgenda ms s) = hostReadDraws s := rfl
    rw [h, h2]
    split
    · rename_i r _; cases r <;> rfl
    · split <;> rfl
    · rfl
  | write off w v =>
    show hostWrite off w v _ = mapNext _ (hostWrite off w v s)
    unfold hostWrite
    have hc : (setAgenda ms s).cfg = s.cfg := rfl
    rw [hc]
    split
    · rename_i r _
      have h : (setAgenda ms s).status = s.status := rfl
      cases r <;> dsimp only [regWrite] <;> (try rw [h]) <;> (try split) <;> rfl
    · exact congrArg Host.Outcome.next (hostStore_setAgenda _ _ ms s)
    · rfl

theorem drawRange_setAgenda (op : DevOp) (ms : List Move) (s : State) :
    drawRange op (setAgenda ms s) = setAgenda ms (drawRange op s) := rfl

theorem applyOp_setAgenda (op : DevOp) (ms : List Move) (s : State) :
    applyOp op (setAgenda ms s) = setAgenda ms (applyOp op s) := by
  cases op with
  | program a d =>
    have h : (setAgenda ms s).dev = s.dev := rfl
    unfold applyOp
    dsimp only
    rw [h]
    split <;> rfl
  | erase lo hi => rfl
  | draws lo hi => rfl

theorem deviceStep_setAgenda (ms : List Move) (s : State) :
    deviceStep (setAgenda ms s) = setAgenda ms (deviceStep s) := by
  have h : (setAgenda ms s).dev = s.dev ∧ (setAgenda ms s).draws = s.draws := ⟨rfl, rfl⟩
  unfold deviceStep
  rw [h.1, h.2]
  split
  · rfl
  · rw [applyOp_setAgenda]
    split
    · rfl
    · split
      · rfl
      · exact congrArg settleDevice (applyOp_setAgenda _ ms (bump 1 s))

/-- No move reads or writes the agenda. -/
theorem moveStep_setAgenda (m : Move) (ms : List Move) (s : State) :
    moveStep m (setAgenda ms s) = mapNext (setAgenda ms) (moveStep m s) := by
  cases m with
  | host acc => exact hostStep_setAgenda acc ms s
  | sequencer => exact sequencerStep_setAgenda ms s
  | device => exact congrArg Host.Outcome.next (deviceStep_setAgenda ms s)
  | reset =>
    refine congrArg Host.Outcome.next ?_
    have h : (setAgenda ms s).dev = s.dev := rfl
    unfold resetStep interruptDevice
    rw [h]
    cases s.dev.pending <;> rfl

theorem moveStep_agenda {m : Move} {s t : State} (h : moveStep m s = .next t) : t.agenda = s.agenda := by
  have := moveStep_setAgenda m s.agenda s
  rw [setAgenda_self, h] at this
  exact (congrArg (fun o => match o with | .next (u : State) => u.agenda | _ => []) this : _)

/-! ### Playing a schedule -/

@[simp] theorem play_nil (s : State) : play [] s = .next s := rfl

theorem play_cons (m : Move) (ms : List Move) (s : State) :
    play (m :: ms) s = match moveStep m s with
      | .next t => play ms t
      | .fault e => .fault e
      | .refused r => .refused r := by
  have h := moveStep_setAgenda m (ms ++ s.agenda) s
  have hs : step { s with agenda := m :: ms ++ s.agenda } = moveStep m (setAgenda (ms ++ s.agenda) s) := rfl
  unfold play
  rw [List.length_cons, run, hs, h]
  cases hm : moveStep m s with
  | next t => rw [← moveStep_agenda hm]; rfl
  | fault e => rfl
  | refused r => rfl

theorem play_next {m : Move} {s t : State} (h : moveStep m s = .next t) (ms : List Move) :
    play (m :: ms) s = play ms t := by
  rw [play_cons, h]

theorem play_append {ms : List Move} {s t : State} (h : play ms s = .next t) (ns : List Move) :
    play (ms ++ ns) s = play ns t := by
  induction ms generalizing s with
  | nil => rw [play_nil] at h; cases h; rfl
  | cons m ms ih =>
    rw [List.cons_append, play_cons]
    rw [play_cons] at h
    cases hm : moveStep m s with
    | next u => rw [hm] at h; exact ih h
    | fault e => rw [hm] at h; cases h
    | refused r => rw [hm] at h; cases h

/-- The sequencer's move on a command that runs. -/
theorem moveStep_sequencer {s : State} {l : Latch} {p : Phase} {i : Instr} (h : s.seq = .run l p)
    (hd : decode l.opw = .ok i) : moveStep .sequencer s = microStep i l p s := by
  show sequencerStep s = _
  unfold sequencerStep
  rw [h]
  dsimp only
  rw [hd]
  exact exec_run i h

theorem play_sequencer {s t : State} {l : Latch} {p : Phase} {i : Instr} (h : s.seq = .run l p)
    (hd : decode l.opw = .ok i) (hm : microStep i l p s = .next t) (ms : List Move) :
    play (.sequencer :: ms) s = play ms t :=
  play_next ((moveStep_sequencer h hd).trans hm) ms

theorem seqMoves_succ (k : Nat) : seqMoves (k + 1) = .sequencer :: seqMoves k := rfl

end Sys2Proof.Machine
end

