-- ==== Sys2Proof/Tests/Slice0.lean ====
section
/-! SUPPORT. The author's tests: the well-formedness checks, the decoding of written-out words, one or two single
steps per command with results taken from spec/95_test_vectors.md, and a witness for the hypotheses of every
statement that has some. -/

namespace Sys2Proof.Tests

open Sys2Proof Sys2Proof.Machine Sys2Proof.Safety

/-! ### Helpers -/

/-- Idle after reset, over a reliable bus. -/
def quiet : State := { State.reset with cfg := { spiFaultDraw := false, timeoutDraw := false } }

/-- `quiet` with the command word `w` running in phase `p`, its operands latched from the registers. -/
def runningWord (w : Word) (a n b : Word) (p : Phase) : State :=
  { quiet with
    cmd := w, addr := a, len := n, boff := b, status := statusAccept Status.reset
    seq := .run { opw := w, a := a, n := n, b := b } p }

/-- The same for a command. -/
def running (i : Instr) (a n b : Word) (p : Phase) : State := runningWord (encode i) a n b p

/-- The latch of `running`. -/
def latchOf (i : Instr) (a n b : Word) : Latch := { opw := encode i, a := a, n := n, b := b }

/-- `s` with bytes stored in DBUF from index `b` up. -/
def withDbuf (b : Nat) (bytes : List Byte) (s : State) : State := { s with dbuf := dbufStore s.dbuf b bytes }

/-- `s` with bytes stored in the flash array from address `a` up. -/
def withFlash (a : Nat) (bytes : List Byte) (s : State) : State :=
  { s with dev := { s.dev with flash := flashWriteAt s.dev.flash (List.range' a bytes.length) bytes } }

/-- `s` with WEL and a pending operation of the device. -/
def withDevice (wel : Bool) (op : Option DevOp) (s : State) : State :=
  { s with dev := { s.dev with wel := wel, pending := op } }

/-- The next state of an outcome, or the given one. -/
def nextOr (s : State) : Result → State
  | .next t => t
  | _ => s

/-- A field of the next state, `none` when there is none. -/
def field {α : Type} (f : State → α) : Result → Option α
  | .next t => some (f t)
  | _ => none

/-- The outcome is the model fault of 60_exceptions.md R140. -/
def faultsUninit : Result → Bool
  | .fault .uninitDbufRead => true
  | _ => false

/-- The outcome is a BusError at an offset. -/
def faultsBus (off : Nat) : Result → Bool
  | .fault (.busError o) => o == off
  | _ => false

/-- REC0 of spec/95_test_vectors.md section 1.3. -/
def rec0 : List Byte :=
  [0x7A, 0xDA, 0xED, 0xFE, 0x00, 0x00, 0x00, 0x00, 0xE8, 0x03, 0x00, 0x00, 0x00, 0x50, 0x7D, 0x44] ++
  [0x00, 0x00, 0xAC, 0x41, 0x00, 0x00, 0x34, 0x42, 0x00, 0x0C, 0xCF, 0x02, 0x40, 0xF4, 0x7B, 0x00] ++
  [0xC2, 0x01, 0xC0, 0x01, 0x09, 0x01, 0x0C, 0x01, 0x00, 0x00, 0x74, 0x0E, 0x00, 0x00, 0x00, 0x00] ++
  [0x00, 0x00, 0x00, 0x00, 0x00, 0x00, 0x00, 0x00, 0x00, 0x00, 0x00, 0x00, 0xDE, 0x84, 0x21, 0x26]

/-- HDR_FRESH of section 1.3. -/
def hdrFresh : List Byte :=
  [0xAD, 0xDE, 0xA5, 0xF1, 0x01, 0x00, 0x00, 0x00, 0x00, 0x10, 0x00, 0x00, 0x00, 0x00, 0x00, 0x00] ++
  [0x00, 0x00, 0x00, 0x00, 0x00, 0x10, 0x00, 0x00, 0x00, 0x00, 0x00, 0x00, 0x00, 0x00, 0x00, 0x00] ++
  [0x00, 0x00, 0x00, 0x00, 0x00, 0x00, 0x00, 0x00, 0x09, 0x0A, 0xB9, 0xBB]

/-- Every DBUF byte defined, holding 0. -/
def fullDbuf : Memory := (List.range 4096).map fun i => (i, 0)

theorem memGet_zeros (l : List Nat) (a : Nat) (h : a ∈ l) : memGet (l.map fun i => (i, (0 : Byte))) a = some 0 := by
  induction l with
  | nil => cases h
  | cons x l ih =>
    rw [List.map_cons, memGet]
    by_cases hx : x = a
    · rw [if_pos hx]
    · rw [if_neg hx]
      exact ih ((List.mem_cons.1 h).resolve_left (Ne.symm hx))

theorem fullDbuf_defined : dbufDefined fullDbuf 0 4096 = true := by
  rw [dbufDefined_iff]
  intro i hi
  exact ⟨0, memGet_zeros _ _ (by simpa using hi)⟩

theorem fullDbuf_wf : dbufWf 4096 fullDbuf := by
  refine ⟨List.pairwise_map.2 List.pairwise_lt_range, fun c hc => ?_⟩
  obtain ⟨i, hi, rfl⟩ := List.mem_map.1 hc
  exact List.mem_range.1 hi

/-! ### Well-formedness: an ill-formed term for each check -/

theorem test_wellFormed_refuses_reserved_bit : wordWellFormed 0x00000101#32 = false ∧ wordWellFormed 0x80000010#32 = false := by
  decide

theorem test_wellFormed_refuses_reserved_opcode :
    wordWellFormed 0x00000008#32 = false ∧ wordWellFormed 0x00000014#32 = false := by decide

theorem test_reservedBitsClear_refuses : reservedBitsClear 0x00000100#32 = false := by decide

theorem test_opcodeAssigned_refuses : opcodeAssigned 0x000000FF#32 = false := by decide

theorem test_configWellFormed_refuses_block_size : configWellFormed { blockSize := 0x00003000#32 } = false ∧
    configWellFormed { blockSize := 0x00400000#32 } = false := by decide

theorem test_configWellFormed_refuses_sizes : configWellFormed { dbufSize := 4094 } = false ∧
    configWellFormed { dbufSize := 0x100000000 } = false ∧ configWellFormed { spiAddrBits := 16 } = false := by decide

theorem test_statedSizes_refuses_widths : statedSizes { dbufSize := 2048 } = false ∧
    statedSizes { hostBusBits := 16 } = false ∧ statedSizes { registerBits := 16 } = false ∧
    statedSizes { spiAddrBits := 32 } = false := by decide

theorem test_configWellFormed_accepts_default : configWellFormed {} = true ∧ statedSizes {} = true := by decide

/-! ### Decoding: words written out from the opcode map of 30_encoding.md R88 -/

theorem test_decode_nop : decode 0b00000000000000000000000000000000#32 = .ok .nop := by decide
theorem test_decode_read : decode 0b00000000000000000000000000000001#32 = .ok .read := by decide
theorem test_decode_prog_page : decode 0b00000000000000000000000000000010#32 = .ok .progPage := by decide
theorem test_decode_write : decode 0b00000000000000000000000000000011#32 = .ok .write := by decide
theorem test_decode_erase_sector : decode 0b00000000000000000000000000000100#32 = .ok .eraseSector := by decide
theorem test_decode_erase_block : decode 0b00000000000000000000000000000101#32 = .ok .eraseBlock := by decide
theorem test_decode_erase_chip : decode 0b00000000000000000000000000000110#32 = .ok .eraseChip := by decide
theorem test_decode_read_id : decode 0b00000000000000000000000000000111#32 = .ok .readId := by decide
theorem test_decode_crc_init : decode 0b00000000000000000000000000010000#32 = .ok .crcInit := by decide
theorem test_decode_crc_buf : decode 0b00000000000000000000000000010001#32 = .ok .crcBuf := by decide
theorem test_decode_validate_record : decode 0b00000000000000000000000000010010#32 = .ok .validateRecord := by decide
theorem test_decode_validate_header : decode 0b00000000000000000000000000010011#32 = .ok .validateHeader := by decide

/-- V-DEC-2 to V-DEC-7. -/
theorem test_decode_illegal : ∀ p ∈ ([(0x00000008, .reservedOpcode), (0x0000000F, .reservedOpcode),
    (0x00000014, .reservedOpcode), (0x000000FF, .reservedOpcode), (0x00000101, .reservedBits),
    (0x80000010, .reservedBits)] : List (Word × Illegal)), decode p.1 = .error p.2 := by decide

theorem test_encode : [Instr.nop, .readId, .crcInit, .validateHeader].map encode =
    [0x00000000#32, 0x00000007#32, 0x00000010#32, 0x00000013#32] := by decide

/-! ### One step of each command -/

/-- A placed NOP is decoded by the next step (R98, R107). -/
theorem test_step_nop : field (·.seq) (step (State.reset.withFetchWord 32 0)) =
    some (.run (latchOf .nop 0 0 0) (.finish .ok)) := by decide

/-- R107's example: STATUS = 0x0000_0002. -/
theorem test_nop_status : field (statusWord ·.status) (exec .nop (running .nop 0 0 0 (.finish .ok))) =
    some 0x00000002#32 := by decide

/-- V-DEC-6: an illegal word ends with STATUS = 0x0000_0062. -/
theorem test_illegal_status :
    field (statusWord ·.status) (sequencerStep (runningWord 0x00000101 0 0 0 (.finish .errOpcode))) =
      some 0x00000062#32 := by decide

/-- V-RD-1: the read frame `03 12 34 56`, and its four bytes. -/
theorem test_read_frame :
    field (fun t => (t.spiLog.map (frameBytes t.cfg), t.seq))
      (exec .read (withFlash 0x123456 [0x11, 0x22, 0x33, 0x44] (running .read 0x123456 4 0x10 (.receive 0x123456 4 0x10)))) =
      some ([[0x03#8, 0x12#8, 0x34#8, 0x56#8]],
        .run (latchOf .read 0x123456 4 0x10) (.deposit 0x10 [0x11, 0x22, 0x33, 0x44] .ok)) := by decide

/-- V-RD-5, V-RD-8: a + n does not wrap; zero length finishes OK at the end of the array. -/
theorem test_read_checks :
    field (·.seq) (exec .read (running .read 0xFFFFFFFF 2 0 .check)) =
        some (.run (latchOf .read 0xFFFFFFFF 2 0) (.finish .errParam)) ∧
      field (·.seq) (exec .read (running .read 0x200000 0 4096 .check)) =
        some (.run (latchOf .read 0x200000 0 4096) (.finish .ok)) := by decide

/-- V-PP-2, V-PP-3: the page bound. -/
theorem test_prog_page_bound :
    field (·.seq) (exec .progPage (running .progPage 0x1001 256 0 .check)) =
        some (.run (latchOf .progPage 0x1001 256 0) (.finish .errParam)) ∧
      field (·.seq) (exec .progPage (running .progPage 0x10FF 1 0 .check)) =
        some (.run (latchOf .progPage 0x10FF 1 0)
          (.prePoll .pageProgram (.mutate [.program { addr := 0x10FF, boff := 0, len := 1 }]))) := by decide

/-- The frame `02 00 10 00` and its data make the program pending; V-PP-9: an undefined byte is a model fault. -/
theorem test_prog_page_frame :
    field (fun t => (t.spiLog.map (frameBytes t.cfg), t.dev.pending))
        (exec .progPage (withDbuf 0 [0xAA, 0xBB] (withDevice true none
          (running .progPage 0x1000 2 0 (.frame .pageProgram (.program { addr := 0x1000, boff := 0, len := 2 }) []))))) =
        some ([[0x02#8, 0x00#8, 0x10#8, 0x00#8, 0xAA#8, 0xBB#8]], some (.program 0x1000 [0xAA, 0xBB])) ∧
      faultsUninit (exec .progPage (withDbuf 0 [1, 2, 3] (withDevice true none
        (running .progPage 0x1000 4 0
          (.frame .pageProgram (.program { addr := 0x1000, boff := 0, len := 4 }) []))))) = true := by decide

/-- V-WR-2: two chunks. -/
theorem test_write_chunks :
    field (·.seq) (exec .write (running .write 0x10F0 64 0 .check)) =
      some (.run (latchOf .write 0x10F0 64 0) (.prePoll .pageProgram
        (.mutate [.program { addr := 0x10F0, boff := 0, len := 16 },
          .program { addr := 0x1100, boff := 16, len := 48 }]))) := by decide

/-- V-WR-3, V-WR-7. -/
theorem test_write_chunk_table : (chunks 0x10FF 0 258 = [⟨0x10FF, 0, 1⟩, ⟨0x1100, 1, 256⟩, ⟨0x1200, 257, 1⟩]) ∧
    field (·.seq) (exec .write (running .write 0x1FFFF0 17 0 .check)) =
      some (.run (latchOf .write 0x1FFFF0 17 0) (.finish .errParam)) := by decide +kernel

/-- V-ER-1: the base of the sector of 0x1234, and its frame `20 00 10 00`. -/
theorem test_erase_sector :
    field (·.seq) (exec .eraseSector (running .eraseSector 0x1234 7 9 .check)) =
        some (.run (latchOf .eraseSector 0x1234 7 9) (.prePoll .sectorErase (.mutate [.erase .sector 0x1000]))) ∧
      field (fun t => (t.spiLog.map (frameBytes t.cfg), t.dev.pending))
        (exec .eraseSector (withDevice true none
          (running .eraseSector 0x1234 7 9 (.frame .sectorErase (.erase .sector 0x1000) [])))) =
        some ([[0x20#8, 0x00#8, 0x10#8, 0x00#8]], some (.erase 0x1000 0x2000)) := by decide

/-- V-ER-6: the block of 0x1_2345, and its frame `D8 01 00 00`. -/
theorem test_erase_block :
    field (·.seq) (exec .eraseBlock (running .eraseBlock 0x12345 0 0 .check)) =
        some (.run (latchOf .eraseBlock 0x12345 0 0) (.prePoll .blockErase (.mutate [.erase .block 0x10000]))) ∧
      field (fun t => (t.spiLog.map (frameBytes t.cfg), t.dev.pending))
        (exec .eraseBlock (withDevice true none
          (running .eraseBlock 0x12345 0 0 (.frame .blockErase (.erase .block 0x10000) [])))) =
        some ([[0xD8#8, 0x01#8, 0x00#8, 0x00#8]], some (.erase 0x10000 0x20000)) := by decide

/-- V-ER-8: the chip erase frame `C7`. -/
theorem test_erase_chip :
    field (fun t => (t.spiLog.map (frameBytes t.cfg), t.dev.pending))
      (exec .eraseChip (withDevice true none (running .eraseChip 1 2 3 (.frame .chipErase (.erase .chip 0) [])))) =
      some ([[0xC7#8]], some (.erase 0 0x200000)) := by decide

/-- V-ID-1: the reply EF 40 15, then STATUS = 0x0008_0002 at `finish`. -/
theorem test_read_id : field (fun t => (t.jedecId, t.seq, t.status.idOk)) (exec .readId (running .readId 0 0 0 .identify)) =
    some (0x00EF4015#32, .run (latchOf .readId 0 0 0) (.finish .ok), true) := by decide

/-- V-ID-3: another part is ERR_NODEV, and JEDEC_ID holds its bytes. -/
theorem test_read_id_other : field (fun t => (t.jedecId, t.seq, t.status.idOk))
    (exec .readId { running .readId 0 0 0 .identify with dev := { quiet.dev with fitted := some 0xEF7015 } }) =
    some (0x00EF7015#32, .run (latchOf .readId 0 0 0) (.finish .errNodev), false) := by decide

/-- R123. -/
theorem test_crc_init : field (·.crcState) (exec .crcInit { running .crcInit 0 0 0 .seed with crcState := 0x12345678 }) =
    some 0xFFFFFFFF#32 := by decide

/-- Section 2.7: the byte 31 fed to the seed. -/
theorem test_crc_buf_byte : field (fun t => (t.crcState, t.seq))
    (exec .crcBuf (withDbuf 5 [0x31] (running .crcBuf 0 1 5 (.feed 0)))) =
    some (0x7C231048#32, .run (latchOf .crcBuf 0 1 5) (.finish .ok)) := by decide

/-- V-CRC-1 (the bound), V-CRC-3 (an undefined byte). -/
theorem test_crc_buf_stops : field (·.seq) (exec .crcBuf (running .crcBuf 0 97 4000 .check)) =
      some (.run (latchOf .crcBuf 0 97 4000) (.finish .errParam)) ∧
    faultsUninit (exec .crcBuf (running .crcBuf 0 2 0 (.feed 1))) = true := by decide

/-- V-VAL-1: REC0 is valid. -/
theorem test_validate_record : field (fun t => (t.valCalc, t.valStored, t.status.magicOk, t.status.crcOk, t.seq))
    (exec .validateRecord (withDbuf 0 rec0 (running .validateRecord 0 0 0 (.judge .record)))) =
    some (0x262184DE#32, 0x262184DE#32, true, true, .run (latchOf .validateRecord 0 0 0) (.finish .ok)) := by
  decide +kernel

/-- V-VAL-6: 64 erased bytes. -/
theorem test_validate_record_erased : field (fun t => (t.valCalc, t.valStored, t.status.magicOk, t.status.crcOk, t.seq))
    (exec .validateRecord (withDbuf 0 (List.replicate 64 0xFF) (running .validateRecord 0 0 0 (.judge .record)))) =
    some (0xF48CF14D#32, 0xFFFFFFFF#32, false, false, .run (latchOf .validateRecord 0 0 0) (.finish .errCrc)) := by
  decide +kernel

/-- V-VAL-9: HDR_FRESH is valid. -/
theorem test_validate_header : field (fun t => (t.valCalc, t.valStored, t.status.magicOk, t.status.versionOk, t.status.crcOk))
    (exec .validateHeader (withDbuf 0 hdrFresh (running .validateHeader 0 0 0 (.judge .header)))) =
    some (0xBBB90A09#32, 0xBBB90A09#32, true, true, true) := by
  decide +kernel

/-- V-VAL-16: REC0 under the wrong command. -/
theorem test_validate_header_of_record :
    field (fun t => (t.valCalc, t.valStored, t.status.magicOk, t.status.versionOk, t.status.crcOk, t.seq))
    (exec .validateHeader (withDbuf 0 rec0 (running .validateHeader 0 0 0 (.judge .header)))) =
    some (0xFC7035D8#32, 0x0E740000#32, false, false, false,
      .run (latchOf .validateHeader 0 0 0) (.finish .errCrc)) := by
  decide +kernel

/-! ### One step of the host, the device and the environment -/

/-- V-REG-13: W1C of DONE keeps OVR and ERR. -/
theorem test_status_write : statusWord (statusWrite 2 { Status.reset with done := true, ovr := true, err := .errCrc }) =
    0x00000054#32 := by decide

/-- V-REG-5, V-REG-6, V-REG-7. -/
theorem test_bus_errors : faultsBus 0x006 (hostStep (.read 0x006 .half) quiet) = true ∧
    faultsBus 0x005 (hostStep (.read 0x005 .word) quiet) = true ∧
    faultsBus 0x040 (hostStep (.read 0x040 .word) quiet) = true ∧
    faultsBus 0xFFC (hostStep (.write 0xFFC .word 0) quiet) = true ∧
    faultsBus 0x2000 (hostStep (.read 0x2000 .byte) quiet) = true := by decide

/-- R9: another DBUF size and other widths move the window's end, the bounds and the address bytes. -/
theorem test_config_overrides :
    regionAt { dbufSize := 2048 } 0x17FF .byte = .dbuf 2047 ∧ regionAt { dbufSize := 2048 } 0x1800 .byte = .refused ∧
      planOf { dbufSize := 2048 } .crcBuf (latchOf .crcBuf 0 2 2047) = .finish .errParam ∧
      regionAt { hostBusBits := 16 } 0x1000 .word = .refused ∧
      regionAt { registerBits := 16 } 0x004 .half = .reg .status ∧
      frameBytes { spiAddrBits := 32 } (.read 0x123456 1) = [0x03, 0x00, 0x12, 0x34, 0x56] := by decide

/-- V-REG-11: an undefined byte. -/
theorem test_undefined_dbuf_read : faultsUninit (hostStep (.read 0x1000 .byte) quiet) = true := by decide

/-- V-REG-17: a CMD write while BUSY = 1 sets OVR and stores nothing. -/
theorem test_cmd_write_while_busy :
    field (fun t => (t.cmd, t.status.ovr)) (hostStep (.write 0 .word 1) (running .nop 0 0 0 .decode)) =
      some (0#32, true) := by decide

/-- V-PP-1: the completion step stores the data; V-ER-9's range is drawn by a reset. -/
theorem test_device_step : (deviceStep (withDevice true (some (.program 0x1000 [0xAA, 0xBB])) quiet)).dev.flash =
    [(0x1000, 0xAA#8), (0x1001, 0xBB#8)] := by decide

/-- R163: a host write to byte b + 1 of a WRITE with its program pending, and with it completed, changes the pending
datum, or the array's byte a + 1, only. -/
theorem test_race_on_program :
    let s := { running .write 0x1000 2 0 (.postPoll .pageProgram []) with
      issued := some { addr := 0x1000, boff := 0, len := 2 } }
    (field (fun t => (t.dev.pending.map (fun op => (opAddrs op).length), t.raced))
        (hostStep (.write 0x1001 .byte 9) (withDevice true (some (.program 0x1000 [1, 2])) s)) = some (some 2, [1])) ∧
      field (fun t => (t.draws, t.dbuf)) (hostStep (.write 0x1001 .byte 9) s) = some (1, [(1, 9#8)]) := by decide

/-- R155: every DBUF byte is undefined after a reset. -/
theorem test_reset_step : (resetStep (withDbuf 0 [1] (running .read 0 0 0 .check))).dbuf = [] ∧
    (resetStep (running .read 0 0 0 .check)).seq = .idle := by decide

/-! ### Witnesses: states and operands that meet the hypotheses of the statements, with boundary values -/

/-- A reliable bus and an idle, fitted, unprotected device, for the whole-run statements. -/
theorem quiet_device : quiet.cfg.spiFaultDraw = false ∧ deviceReady quiet ∧ devUnprotected quiet.dev = true :=
  ⟨rfl, ⟨by decide, rfl⟩, by decide⟩

theorem witness_StepRunsTheDecodedCommand :
    (running .read 0 4 0 .check).seq = .run (latchOf .read 0 4 0) .check ∧
      decode (latchOf .read 0 4 0).opw = .ok .read ∧
      { running .read 0 4 0 .check with agenda := [.sequencer, .reset] }.agenda = .sequencer :: [.reset] ∧
      { quiet with agenda := [.host (.read 0x004 .word), .device] }.agenda = .host (.read 0x004 .word) :: [.device] ∧
      quiet.seq = .idle ∧ (withDevice true (some (.erase 0 0x1000)) quiet).agenda = [] ∧
      (running .read 0 4 0 .check).agenda = [] ∧ (running .read 0 4 0 .check).dev.pending = none := by decide

theorem witness_PlacedWordRunsInTheNextStep : decode 0x00000013#32 = .ok .validateHeader := by decide

/-- Each clause at the ends of its range. -/
theorem witness_IllegalWordFinishesErrOpcode :
    (runningWord 0x00000108 0 0 0 .decode).seq = .run { opw := 0x00000108, a := 0, n := 0, b := 0 } .decode ∧
      rsvdField 0x00000101#32 ≠ 0#24 ∧ rsvdField 0x80000010#32 ≠ 0#24 ∧
      (opcodeField 0x00000008#32).toNat = 8 ∧ (opcodeField 0x0000000F#32).toNat = 15 ∧
      (opcodeField 0x00000014#32).toNat = 20 ∧ (opcodeField 0x000000FF#32).toNat = 255 := by decide

theorem witness_CommandsFaultOnlyOnUndefinedBytes :
    faultsUninit (exec .write (running .write 0 4 0
        (.frame .pageProgram (.program { addr := 0, boff := 0, len := 4 }) []))) = true ∧
      faultsUninit (exec .crcBuf (running .crcBuf 0 1 4095 (.feed 0))) = true ∧
      faultsUninit (exec .validateRecord (running .validateRecord 0 0 4032 (.judge .record))) = true := by decide

/-- The first and the last DBUF byte, outside the range of a running command. -/
theorem witness_AccessesWhileBusyAndReadOnlyWrites : statedSizes (running .read 0 1 100 .check).cfg = true ∧
    quiet.status.busy = false ∧ statedSizes quiet.cfg = true ∧
    (running .read 0 1 100 .check).status.busy = true ∧
    inBusyRange (running .read 0 1 100 .check) 0 = false ∧ inBusyRange (running .read 0 1 100 .check) 99 = false ∧
    inBusyRange (running .read 0 1 100 .check) 101 = false ∧
    inBusyRange (running .read 0 1 100 .check) 4095 = false := by decide

theorem witness_OperandRegistersStoreEveryBit :
    statedSizes State.reset.cfg = true ∧ State.reset.status.busy = false := by decide

theorem witness_FrameBytesDetermineTheFrame : configWellFormed {} = true ∧
    (frameAddr (.pageProgram 0xFFFFFF#32 [1, 2])).toNat < 2 ^ ({} : Config).spiAddrBits ∧
    configWellFormed { spiAddrBits := 32 } = true := by decide

/-- Idle and running states with the stated sizes. -/
theorem witness_CmdWriteAcceptsOrSetsOvr : statedSizes quiet.cfg = true ∧ quiet.status.busy = false ∧
    statedSizes (running .nop 0 0 0 .decode).cfg = true ∧ (running .nop 0 0 0 .decode).status.busy = true := by decide

theorem witness_StatusBitsAndWrite : statedSizes quiet.cfg = true := by decide

theorem witness_CrcDataFeedsOneByte : statedSizes quiet.cfg = true ∧ quiet.status.busy = false := by decide

theorem witness_RegisterReadsReturn : statedSizes quiet.cfg = true ∧ quiet.cfg.blockSize = 0x00010000#32 := by decide

/-- Each clause at the ends of its range, and accesses next to them that the block takes. -/
theorem witness_BusErrorExactlyOnRefusedAccesses :
    (∀ p ∈ ([(0x000, .byte), (0x03F, .word), (0x03E, .half), (0x040, .word), (0xFFF, .byte), (0x1001, .half),
        (0x1FFE, .word), (0x2000, .byte)] : List (Nat × Width)), regionAt {} p.1 p.2 = .refused) ∧
      (∀ p ∈ ([(0x000, .word), (0x03C, .word), (0x1000, .word), (0x1FFF, .byte), (0x1FFE, .half)] : List (Nat × Width)),
        regionAt {} p.1 p.2 ≠ .refused) := by decide

/-- Each width at the last place it fits, with BUSY = 0 and beside the range of a running command. -/
theorem witness_DbufIsLittleEndian : statedSizes quiet.cfg = true ∧
    (∀ p ∈ ([(4095, .byte), (4094, .half), (4092, .word)] : List (Nat × Width)),
      p.1 % widthBytes p.2 = 0 ∧ p.1 + widthBytes p.2 ≤ 4096 ∧
        ∀ k < widthBytes p.2, inBusyRange quiet (p.1 + k) = false) ∧
    (∀ k < 2, inBusyRange (running .write 0 1 100 .check) (102 + k) = false) ∧
    (2 + 2) % widthBytes .half = 0 ∧ 2 + widthBytes .half ≤ widthBytes .word := by decide

theorem witness_HostReadFaultsOnUndefinedDbuf : (0x1000 + 4095) % widthBytes .byte = 0 ∧
    (0x1000 + 4092) % widthBytes .word = 0 ∧ 4095 < 4096 ∧ statedSizes quiet.cfg = true := by decide

theorem witness_ReadsHaveNoSideEffect :
    field (·.readLog) (hostStep (.read 0x1000 .half) (withDbuf 0 [0x34, 0x12] quiet)) = some [0x1234#32] ∧
      (withDbuf 0 [0x34, 0x12] quiet).seq = .idle := by decide

theorem witness_ReadsHaveNoSideEffect_no_read : ∀ x, inReadDestination (withDbuf 0 [0x34, 0x12] quiet) x = false :=
  fun _ => rfl

theorem witness_CrcDetectsOneChangedByte : (0x00#8 : Byte) ≠ 0xFF#8 := by decide

theorem witness_CrcInitSetsTheSeed : (running .crcInit 0 0 0 .seed).seq = .run (latchOf .crcInit 0 0 0) .seed ∧
    (running .crcInit 0 0 0 .decode).seq = .run (latchOf .crcInit 0 0 0) .decode ∧
    decode (latchOf .crcInit 0 0 0).opw = .ok .crcInit := by decide

theorem witness_CrcBufFeedsByte : (running .crcBuf 0 2 4094 (.feed 1)).seq = .run (latchOf .crcBuf 0 2 4094) (.feed 1) ∧
    1 < (latchOf .crcBuf 0 2 4094).n.toNat ∧
    memGet (withDbuf 4095 [0x31] (running .crcBuf 0 2 4094 (.feed 1))).dbuf (4094 + 1) = some 0x31 ∧
    memGet (running .crcBuf 0 2 4094 (.feed 1)).dbuf (4094 + 1) = none := by decide

theorem witness_CrcBufFeedsItsRange :
    let s := withDbuf 4094 [1, 2] (running .crcBuf 0 2 4094 .decode)
    s.seq = .run (latchOf .crcBuf 0 2 4094) .decode ∧ decode (latchOf .crcBuf 0 2 4094).opw = .ok .crcBuf ∧
      s.raced = [] ∧ (4094#32).toNat + (2#32).toNat ≤ 4096 ∧ dbufDefined s.dbuf 4094 2 = true := by decide

theorem witness_ValidateRecordJudgesTheImage :
    let s := withDbuf 4032 rec0 (running .validateRecord 0 0 4032 .decode)
    s.seq = .run (latchOf .validateRecord 0 0 4032) .decode ∧
      decode (latchOf .validateRecord 0 0 4032).opw = .ok .validateRecord ∧ s.raced = [] ∧
      (4032#32).toNat + 64 ≤ 4096 ∧ dbufDefined s.dbuf 4032 64 = true := by decide +kernel

theorem witness_ValidateHeaderJudgesTheImage :
    let s := withDbuf 4052 hdrFresh (running .validateHeader 0 0 4052 .decode)
    s.seq = .run (latchOf .validateHeader 0 0 4052) .decode ∧
      decode (latchOf .validateHeader 0 0 4052).opw = .ok .validateHeader ∧ s.raced = [] ∧
      (4052#32).toNat + 44 ≤ 4096 ∧ dbufDefined s.dbuf 4052 44 = true := by decide +kernel

/-- Each image under its command, valid, invalid and with an undefined byte. -/
theorem witness_ValidationMicroStep :
    let s := running .validateRecord 0 0 0 (.judge .record)
    let u := running .validateHeader 0 0 0 (.judge .header)
    s.seq = .run (latchOf .validateRecord 0 0 0) (.judge .record) ∧
      u.seq = .run (latchOf .validateHeader 0 0 0) (.judge .header) ∧
      dbufDefined (withDbuf 0 rec0 s).dbuf 0 (imageSize .record) = true ∧
      imageValid .record (withDbuf 0 rec0 s).dbuf 0 = true ∧
      dbufDefined s.dbuf 0 (imageSize .record) = false ∧
      dbufDefined (withDbuf 0 hdrFresh u).dbuf 0 (imageSize .header) = true ∧
      imageValid .header (withDbuf 0 hdrFresh u).dbuf 0 = true ∧
      imageVersionOk .header (withDbuf 0 rec0 u).dbuf 0 = false ∧
      dbufDefined (withDbuf 0 rec0 u).dbuf 0 (imageSize .header) = true := by decide +kernel

theorem witness_OneFlippedBitInvalidatesTheRecord :
    let s := withDbuf 0 rec0 (running .validateRecord 0 0 0 (.judge .record))
    s.seq = .run (latchOf .validateRecord 0 0 0) (.judge .record) ∧ dbufDefined s.dbuf 0 64 = true ∧
      imageValid .record s.dbuf 0 = true ∧ 63 < 64 ∧ 7 < 8 := by decide +kernel

theorem witness_NopFinishesOk :
    (running .nop 0 0 0 (.finish .ok)).seq = .run (latchOf .nop 0 0 0) (.finish .ok) ∧
      (running .nop 0 0 0 .decode).seq = .run (latchOf .nop 0 0 0) .decode ∧
      decode (latchOf .nop 0 0 0).opw = .ok .nop := by decide

/-- Each command's bound, at its last accepted and first refused operands. -/
theorem witness_ParameterChecksAreExact :
    (let s := running .read 0x1FFFC1 64 0 .decode;
      s.seq = .run (latchOf .read 0x1FFFC1 64 0) .decode ∧ decode (latchOf .read 0x1FFFC1 64 0).opw = .ok .read ∧
        s.raced = [] ∧ s.cfg.dbufSize = 4096 ∧ 2097152 < (0x1FFFC1#32).toNat + (64#32).toNat ∧
        field (fun t => (t.seq, t.status.err)) (play (seqMoves 3) s) = some (.idle, .errParam)) ∧
    (running .read 0 0 0 .check).seq = .run (latchOf .read 0 0 0) .check ∧ quiet.cfg.dbufSize = 4096 ∧
      planOf {} .read (latchOf .read 0x1FFFC0 64 4032) ≠ .finish .errParam ∧
      planOf {} .read (latchOf .read 0x1FFFC1 64 4032) = .finish .errParam ∧
      planOf {} .read (latchOf .read 0x1FFFC0 64 4033) = .finish .errParam ∧
      planOf {} .progPage (latchOf .progPage 0x1000 256 3840) ≠ .finish .errParam ∧
      planOf {} .progPage (latchOf .progPage 0x1001 256 3840) = .finish .errParam ∧
      planOf {} .write (latchOf .write 0x1FFFF0 16 0) ≠ .finish .errParam ∧
      planOf {} .write (latchOf .write 0x1FFFF0 17 0) = .finish .errParam ∧
      planOf {} .eraseSector (latchOf .eraseSector 0x1FFFFF 0 0) ≠ .finish .errParam ∧
      planOf {} .eraseSector (latchOf .eraseSector 0x200000 0 0) = .finish .errParam ∧
      planOf {} .eraseBlock (latchOf .eraseBlock 0x1FFFFF 0 0) ≠ .finish .errParam ∧
      planOf {} .eraseBlock (latchOf .eraseBlock 0x200000 0 0) = .finish .errParam ∧
      planOf {} .crcBuf (latchOf .crcBuf 0 96 4000) ≠ .finish .errParam ∧
      planOf {} .crcBuf (latchOf .crcBuf 0 97 4000) = .finish .errParam ∧
      planOf {} .validateRecord (latchOf .validateRecord 0 0 4032) ≠ .finish .errParam ∧
      planOf {} .validateRecord (latchOf .validateRecord 0 0 4033) = .finish .errParam ∧
      planOf {} .validateHeader (latchOf .validateHeader 0 0 4052) ≠ .finish .errParam ∧
      planOf {} .validateHeader (latchOf .validateHeader 0 0 4053) = .finish .errParam := by decide +kernel

theorem witness_ZeroLengthFinishesOk : ∀ i ∈ [Instr.read, .progPage, .write, .crcBuf],
    (running i 0x200000 0 4096 .decode).seq = .run (latchOf i 0x200000 0 4096) .decode ∧
      decode (latchOf i 0x200000 0 4096).opw = .ok i ∧ (running i 0x200000 0 4096 .decode).raced = [] ∧
      (4096#32).toNat ≤ 4096 ∧ (0x200000#32).toNat ≤ 2097152 := by decide

theorem witness_WriteOfOnePageIsProgPage :
    (running .write 0x10F0 16 0 .check).seq = .run (latchOf .write 0x10F0 16 0) .check ∧
      (0x10F0#32).toNat % 256 + (16#32).toNat ≤ 256 := by decide

/-- A frame with no device effect, the write enable, and a mutation on an idle and on a busy device. -/
theorem witness_TransactionOutcomes :
    frameOp {} .readStatus = none ∧ Frame.readStatus ≠ .writeEnable ∧
      frameOp {} (.sectorErase 0x1FF000) = some (.erase 0x1FF000 0x200000) ∧ quiet.dev.pending = none ∧
      (withDevice true (some (.erase 0 4096)) quiet).dev.pending ≠ none := by decide

theorem witness_DeviceTakesFrames : quiet.dev.fitted = some 0xEF4015 ∧ quiet.dev.pending = none ∧
    configWellFormed quiet.cfg = true ∧ (0x1FFFC0#32).toNat + 64 ≤ 2097152 ∧ frameOp {} .chipErase = some (.erase 0 0x200000) := by decide

theorem witness_CompletionStepEffects :
    (∀ op ∈ [DevOp.program 0x1FFF00 (List.replicate 256 0), .erase 0 0x200000, .draws 0x10F0 0x1100],
      (withDevice true (some op) quiet).dev.pending = some op ∧
        devUnprotected (withDevice true (some op) quiet).dev = true ∧
        devUnprotected { (withDevice true (some op) quiet).dev with srHigh := 1 } = false) := by decide +kernel

theorem witness_CompletionStepEffects_opOk : opOk (.program 0x1FFF00 (List.replicate 256 0)) ∧
    opOk (.erase 0 0x200000) ∧ opOk (.draws 0x10F0 0x1100) := by
  unfold opOk
  decide +kernel

theorem witness_PollOutcomes :
    ({ quiet with dev := { quiet.dev with fitted := none } } : State).dev.fitted = none ∧
    (running .read 0 4 0 (.prePoll .pageProgram (.receive 0 4 0))).seq =
      .run (latchOf .read 0 4 0) (.prePoll .pageProgram (.receive 0 4 0)) ∧ quiet.dev.fitted ≠ none ∧
    (running .write 0 4 0 (.postPoll .pageProgram [])).seq = .run (latchOf .write 0 4 0) (.postPoll .pageProgram []) := by
  decide

theorem witness_ProgramFrameIsAccepted :
    let c : Chunk := { addr := 0x1FFFFF, boff := 4095, len := 1 }
    let s := withDevice true none (running .write 0x1FFFFF 1 4095 (.frame .pageProgram (.program c) []))
    let u := running .write 0x1FFFFF 1 4095 (.writeEnable .pageProgram (.program c) [])
    configWellFormed s.cfg = true ∧ (s.dev.fitted ≠ none ∧ s.dev.pending = none) ∧ s.raced = [] ∧ c.addr < 2097152 ∧
      s.seq = .run (latchOf .write 0x1FFFFF 1 4095) (.frame .pageProgram (.program c) []) ∧ s.dev.wel = true ∧
      dbufDefined (withDbuf 4095 [7] s).dbuf c.boff c.len = true ∧ dbufDefined s.dbuf c.boff c.len = false ∧
      u.seq = .run (latchOf .write 0x1FFFFF 1 4095) (.writeEnable .pageProgram (.program c) []) := by decide

theorem witness_EraseFrameIsAccepted :
    ∀ p ∈ [(Instr.eraseSector, EraseUnit.sector), (.eraseBlock, .block), (.eraseChip, .chip)],
    let s := withDevice true none (running p.1 0x1FFFFF 0 0 (.frame .blockErase (.erase p.2 2097151) []))
    let u := running p.1 0x1FFFFF 0 0 (.writeEnable .blockErase (.erase p.2 2097151) [])
    configWellFormed s.cfg = true ∧ (s.dev.fitted ≠ none ∧ s.dev.pending = none) ∧ 2097151 < 2097152 ∧
      s.seq = .run (latchOf p.1 0x1FFFFF 0 0) (.frame .blockErase (.erase p.2 2097151) []) ∧ s.dev.wel = true ∧
      u.seq = .run (latchOf p.1 0x1FFFFF 0 0) (.writeEnable .blockErase (.erase p.2 2097151) []) := by decide

theorem witness_ReadTransfersAndDeposits : configWellFormed quiet.cfg = true ∧ 0x1FFFC0 + 64 ≤ 2097152 ∧
    (running .read 0x1FFFC0 64 0 (.receive 0x1FFFC0 64 0)).seq =
      .run (latchOf .read 0x1FFFC0 64 0) (.receive 0x1FFFC0 64 0) ∧
    (running .read 0 1 4095 (.deposit 4095 [9] .ok)).seq = .run (latchOf .read 0 1 4095) (.deposit 4095 [9] .ok) := by
  decide

theorem witness_ReadCopiesFlashToDbuf :
    let s := running .read 0x1FFFFF 1 4095 .decode
    s.seq = .run (latchOf .read 0x1FFFFF 1 4095) .decode ∧ decode (latchOf .read 0x1FFFFF 1 4095).opw = .ok .read ∧
      s.raced = [] ∧ configWellFormed s.cfg = true ∧ s.cfg.spiFaultDraw = false ∧
      (s.dev.fitted ≠ none ∧ s.dev.pending = none) ∧ s.cfg.dbufSize = 4096 ∧ 0 < (1#32).toNat ∧ (4095#32).toNat + (1#32).toNat ≤ 4096 ∧ (0x1FFFFF#32).toNat + (1#32).toNat ≤ 2097152 := by
  decide

/-- An erased range, and one with an unerased byte. -/
theorem witness_ProgPageProgramsItsRange :
    let s := withDbuf 4094 [1, 2] (running .progPage 0x1FFFFE 2 4094 .decode)
    s.seq = .run (latchOf .progPage 0x1FFFFE 2 4094) .decode ∧
      decode (latchOf .progPage 0x1FFFFE 2 4094).opw = .ok .progPage ∧ s.raced = [] ∧
      configWellFormed s.cfg = true ∧ s.cfg.dbufSize = 4096 ∧ s.cfg.spiFaultDraw = false ∧ (s.dev.fitted ≠ none ∧ s.dev.pending = none) ∧ devUnprotected s.dev = true ∧
      0 < (2#32).toNat ∧ (4094#32).toNat + (2#32).toNat ≤ 4096 ∧ (0x1FFFFE#32).toNat + (2#32).toNat ≤ 2097152 ∧
      (0x1FFFFE#32).toNat % 256 + (2#32).toNat ≤ 256 ∧ dbufDefined s.dbuf 4094 2 = true ∧
      (∀ j < 2, flashRead s.dev.flash (0x1FFFFE + j) = 0xFF#8) ∧
      ¬ ∀ j < 2, flashRead (withFlash 0x1FFFFF [0] s).dev.flash (0x1FFFFE + j) = 0xFF#8 := by decide

theorem witness_WriteProgramsItsRange :
    let s := withDbuf 4094 [1, 2] (running .write 0x10FF 2 4094 .decode)
    s.seq = .run (latchOf .write 0x10FF 2 4094) .decode ∧ decode (latchOf .write 0x10FF 2 4094).opw = .ok .write ∧
      s.raced = [] ∧ s.cfg.spiFaultDraw = false ∧ (s.dev.fitted ≠ none ∧ s.dev.pending = none) ∧
      configWellFormed s.cfg = true ∧ s.cfg.dbufSize = 4096 ∧ devUnprotected s.dev = true ∧ 0 < (2#32).toNat ∧ (4094#32).toNat + (2#32).toNat ≤ 4096 ∧
      (0x10FF#32).toNat + (2#32).toNat ≤ 2097152 ∧ dbufDefined s.dbuf 4094 2 = true ∧
      ∀ j < 2, flashRead s.dev.flash (0x10FF + j) = 0xFF#8 := by decide

/-- The hypotheses the three erase runs share, at the last address of the array. -/
theorem witness_EraseRuns : ∀ i ∈ [Instr.eraseSector, .eraseBlock, .eraseChip],
    let s := running i 0x1FFFFF 0 0 .decode
    s.seq = .run (latchOf i 0x1FFFFF 0 0) .decode ∧ decode (latchOf i 0x1FFFFF 0 0).opw = .ok i ∧ s.raced = [] ∧
      configWellFormed s.cfg = true ∧ s.cfg.spiFaultDraw = false ∧
      (s.dev.fitted ≠ none ∧ s.dev.pending = none) ∧ devUnprotected s.dev = true ∧
      (0x1FFFFF#32).toNat < 2097152 := by decide

theorem witness_ReadIdReportsTheDevice :
    ({ running .readId 0 0 0 .identify with dev := { quiet.dev with fitted := none } } : State).dev.fitted = none ∧
    (running .readId 0 0 0 .identify).seq = .run (latchOf .readId 0 0 0) .identify ∧
      (running .readId 0 0 0 .decode).seq = .run (latchOf .readId 0 0 0) .decode ∧
      decode (latchOf .readId 0 0 0).opw = .ok .readId ∧ quiet.cfg.spiFaultDraw = false ∧
      quiet.dev.fitted = some 0xEF4015 ∧ quiet.dev.pending = none := by decide

/-- The ends of a running command's range, for accesses of every width; a WRITE with its first chunk issued, pending
and completed; a READ whose destination a word access straddles, with the byte outside it defined and undefined. -/
theorem witness_HostAccessesRaceInTheRange :
    let s := { running .write 0x10F0 64 0 (.postPoll .pageProgram []) with
      issued := some { addr := 0x10F0, boff := 0, len := 16 } }
    statedSizes s.cfg = true ∧ programLatch s = some (latchOf .write 0x10F0 64 0) ∧ inBusyRange s 0 = true ∧
      inBusyRange s 15 = true ∧ inBusyRange s 16 = true ∧ s.dev.pending = none ∧
      (withDevice true (some (.program 0x10F0 [1])) s).dev.pending = some (.program 0x10F0 [1]) ∧
    inBusyRange (running .write 0 4096 0 .check) 0 = true ∧ inBusyRange (running .write 0 4096 0 .check) 4095 = true ∧
      inReadDestination (running .read 0 4096 0 .check) 0 = true ∧
      inReadDestination (running .read 0 4096 0 .check) 4095 = true ∧
    (∀ p ∈ [(0, Width.byte), (4095, .byte), (0, .half), (4094, .half), (0, .word), (4092, .word)],
      p.1 % widthBytes p.2 = 0 ∧ p.1 + widthBytes p.2 ≤ 4096) ∧
    (let r := running .read 0 3 4092 .check;
      (∃ k < widthBytes .word, inReadDestination r (4092 + k) = true) ∧ inReadDestination r 4094 = true ∧
        inReadDestination r 4095 = false ∧ memGet (withDbuf 4095 [7] r).dbuf 4095 = some 7 ∧
        memGet r.dbuf 4095 = none) := by decide

/-- CRC_BUF at `finish`; the last byte of the array and of DBUF raced before a WRITE's frame. -/
theorem witness_RacedResultsAreDraws :
    (let c : Chunk := { addr := 0x1FFFFF, boff := 4095, len := 1 }
    let s := { withDbuf 4095 [7] (withDevice true none
      (running .write 0x1FFFFF 1 4095 (.frame .pageProgram (.program c) []))) with raced := [4095] }
    s.raced ≠ [] ∧ configWellFormed s.cfg = true ∧ (s.dev.fitted ≠ none ∧ s.dev.pending = none) ∧ s.dev.wel = true ∧
      c.addr < 2097152 ∧ s.seq = .run (latchOf .write 0x1FFFFF 1 4095) (.frame .pageProgram (.program c) []) ∧
      dbufDefined s.dbuf c.boff c.len = true) ∧
    let s := { running .crcBuf 0 4 0 (.finish .ok) with raced := [0, 3] }
    s.raced ≠ [] ∧ s.seq = .run (latchOf .crcBuf 0 4 0) (.finish .ok) ∧ s.raced.Nodup ∧
      3 < ({ addr := 0, boff := 0, len := 4 } : Chunk).len := by decide

theorem witness_ResetStepEffects :
    (withDevice true (some (.erase 0x1000 0x2000)) quiet).dev.pending = some (.erase 0x1000 0x2000) ∧
      0x1000 ≤ 0x2000 ∧ 0x2000 ≤ Config.flashSize := by decide

/-- The state of P6 of spec/95_test_vectors.md, idle with STATUS = 0x0000_0002. -/
theorem witness_LaunchStateMeetsInvariant :
    let p : Launch := { status := { Status.reset with done := true }, cfg := quiet.cfg }
    let s := { quiet with status := p.status }
    launchOk p s ∧ statusWord s.status = 0x00000002#32 ∧ s.jedecId.extractLsb' 24 8 = 0#8 ∧ s.raced = [] :=
  ⟨⟨⟨rfl, rfl, rfl⟩, rfl, by decide, rfl, rfl, rfl, by decide, by decide, by decide⟩, by decide, by decide, rfl⟩

/-- A READ of four bytes that polls the device, over the given DBUF. -/
def readPolls (m : Memory) : State :=
  { running .read 0 4 0 (.prePoll .pageProgram (.receive 0 4 0)) with dbuf := m }

/-- It meets the invariant. -/
theorem readPolls_inv (m : Memory) (hm : dbufWf 4096 m) : Inv (readPolls m) where
  cfg_ok := show configWellFormed quiet.cfg = true by decide
  flash_wf := show flashWf [] by decide
  dbuf_wf := hm
  busy_iff := ⟨fun _ h => (nomatch h), fun _ => rfl⟩
  busy_clear := fun _ => ⟨rfl, rfl⟩
  jedec_reserved := show (0#32).extractLsb' 24 8 = 0#8 by decide
  latch_eq := by
    intro l p h
    cases h
    rfl
  phase_ok := by
    intro l p h
    cases h
    rfl
  pending_ok := by
    intro op h
    cases h
  raced_ok := by
    intro x h
    cases h

theorem witness_EveryStepKeepsInvariant :
    Inv (readPolls []) ∧ field (·.seq) (step (readPolls [])) = some (.run (latchOf .read 0 4 0) (.receive 0 4 0)) :=
  ⟨readPolls_inv [] (by decide), by decide⟩

/-- A sequencer's move, and a host write that races with a completed byte of a PROG_PAGE. -/
theorem witness_FlashChangesOnlyByDeviceResetOrRace :
    let s := { running .progPage 0x1000 2 0 (.postPoll .pageProgram []) with
      issued := some { addr := 0x1000, boff := 0, len := 2 } }
    programLatch s = some (latchOf .progPage 0x1000 2 0) ∧
      field (·.raced) (moveStep (.host (.write 0x1000 .half 7)) s) = some [1, 0] ∧
      Move.host (.write 0x1000 .half 7) ≠ .device ∧ Move.host (.write 0x1000 .half 7) ≠ .reset ∧
      Move.sequencer ≠ .device ∧ Move.sequencer ≠ .reset ∧
      field (·.seq) (moveStep .sequencer (running .nop 0 0 0 (.finish .ok))) = some .idle := by decide

theorem witness_CommandsNeverWriteOperands :
    field (·.seq) (exec .nop (running .nop 1 2 3 (.finish .ok))) = some .idle := by decide

theorem witness_ResultsWrittenOnlyByTheirCommands :
    Inv (readPolls []) ∧ decode (latchOf .read 0 4 0).opw = .ok .read ∧
      field (·.seq) (exec .read (readPolls [])) = some (.run (latchOf .read 0 4 0) (.receive 0 4 0)) :=
  ⟨readPolls_inv [] (by decide), by decide, by decide⟩

theorem readPolls_defined (m : Memory) (hm : dbufWf 4096 m) (hd : dbufDefined m 0 4096 = true) :
    Inv (readPolls m) ∧ (readPolls m).agenda = [] ∧ (readPolls m).dev.fitted ≠ none ∧
      dbufDefined (readPolls m).dbuf 0 (readPolls m).cfg.dbufSize = true :=
  ⟨readPolls_inv m hm, rfl, fun h => (nomatch h), hd⟩

theorem witness_EveryCommandFinishes : ∃ s, Inv s ∧ s.agenda = [] ∧ s.dev.fitted ≠ none ∧
    dbufDefined s.dbuf 0 s.cfg.dbufSize = true :=
  ⟨readPolls fullDbuf, readPolls_defined fullDbuf fullDbuf_wf fullDbuf_defined⟩

/-- A NOP about to finish meets the invariant, and finishes. -/
theorem witness_CommandsFinishWithTheirCodes :
    Inv (running .nop 0 0 0 (.finish .ok)) ∧
      (running .nop 0 0 0 (.finish .ok)).seq = .run (latchOf .nop 0 0 0) (.finish .ok) ∧
      decode (latchOf .nop 0 0 0).opw = .ok .nop ∧
      field (fun t => (t.seq, t.status.err)) (exec .nop (running .nop 0 0 0 (.finish .ok))) = some (.idle, .ok) ∧
      ∀ c ∈ [Code.errParam, .errSpi, .errTimeout],
        (running .read 0 4 0 (.finish c)).seq = .run (latchOf .read 0 4 0) (.finish c) ∧
          (running .read 0 4 0 (.finish c)).raced = [] :=
  ⟨{  cfg_ok := by decide
      flash_wf := by decide
      dbuf_wf := by decide
      busy_iff := by decide
      busy_clear := by decide
      jedec_reserved := by decide
      latch_eq := fun l p h => by cases h; rfl
      phase_ok := fun l p h => by cases h; rfl
      pending_ok := fun op h => by cases h
      raced_ok := fun x h => by cases h }, by decide, by decide, by decide, by decide⟩

end Sys2Proof.Tests
end

