-- ==== Sys2Proof/Proofs/Scope.lean ====
section
/-! PROOFS. The two statements on the scope of the model: which move a step is, and what a read of each register
returns. -/

namespace Sys2Proof.Machine

/-! ### Which move a step is (00_scope.md R15) -/

/-- The move at the head of the agenda is the step. -/
theorem step_of_agenda_cons {s : State} {m : Move} {rest : List Move} (h : s.agenda = m :: rest) :
    step s = moveStep m { s with agenda := rest } := by
  unfold step agentStep
  rw [h]

/-- An empty agenda leaves the step to the default schedule (log 1). -/
theorem step_of_agenda_nil {s : State} (h : s.agenda = []) : step s = moveStep (defaultMove s) s := by
  unfold step agentStep
  rw [h]

/-- The default schedule completes a pending operation first. -/
theorem defaultMove_eq (s : State) :
    defaultMove s = if s.dev.pending = none then .sequencer else .device := by
  unfold defaultMove devBusy
  cases s.dev.pending <;> rfl

@[simp] theorem moveStep_host (acc : Access) (s : State) : moveStep (.host acc) s = hostStep acc s := rfl

/-- An Idle sequencer has no micro-step (10_state.md R42). -/
theorem moveStep_sequencer_idle {s : State} (h : s.seq = .idle) : moveStep .sequencer s = .next s := by
  show sequencerStep s = _
  unfold sequencerStep
  rw [h]

/-- The sequencer's move is `exec` of the command that the latched word decodes to (40_flash_controller.md R98,
R99). -/
theorem moveStep_sequencer_exec {s : State} {l : Latch} {p : Phase} {i : Instr} (h : s.seq = .run l p)
    (hd : decode l.opw = .ok i) : moveStep .sequencer s = exec i s :=
  (moveStep_sequencer h hd).trans (exec_run i h).symm

/-! ### What a register read returns (10_state.md R25) -/

/-- The offset of each register, the inverse of `regAt` (10_state.md R25). -/
def regOffset : Reg → Nat
  | .cmd => 0x000
  | .status => 0x004
  | .addr => 0x008
  | .len => 0x00C
  | .boff => 0x010
  | .crcState => 0x014
  | .crcResult => 0x018
  | .crcData => 0x01C
  | .valCalc => 0x020
  | .valStored => 0x024
  | .jedecId => 0x028
  | .flashSize => 0x02C
  | .sectorSize => 0x030
  | .pageSize => 0x034
  | .blockSize => 0x038
  | .dbufSize => 0x03C

@[simp] theorem regAt_regOffset (r : Reg) : regAt (regOffset r) = some r := by cases r <;> rfl

/-- Every register stands at an aligned offset of the register region. -/
theorem regOffset_lt_and_aligned (r : Reg) : regOffset r < 0x40 ∧ regOffset r % 4 = 0 := by cases r <;> decide

/-- A word read of a register logs its value and changes nothing else (20_memory.md R57, R78). -/
theorem hostStep_read_reg {s : State} (h : statedSizes s.cfg = true) (r : Reg) :
    hostStep (.read (regOffset r) .word) s = .next { s with readLog := regRead r s :: s.readLog } := by
  obtain ⟨hlt, haligned⟩ := regOffset_lt_and_aligned r
  show hostRead _ _ _ = _
  rw [hostRead, regionAt_register h hlt haligned (regAt_regOffset r)]
  rfl

/-- DBUF_SIZE reads 4096 where the buffer has its stated size (00_scope.md R9). -/
theorem regRead_dbufSize {s : State} (h : statedSizes s.cfg = true) : regRead .dbufSize s = 0x00001000#32 := by
  obtain ⟨hsize, -, -, -⟩ := statedSizes_iff.1 h
  rw [regRead, hsize]

end Sys2Proof.Machine

namespace Sys2Proof.Proofs

open Sys2Proof.Machine

/-- Settles O4: the head of the agenda, or the default move, is the step, and the sequencer's move is `exec` of the
decoded command. -/
theorem stepRunsTheDecodedCommand : Obligations.StepRunsTheDecodedCommand := by
  intro s
  refine ⟨fun m rest h => step_of_agenda_cons h, ?host, ?idle, ?default, ?running⟩
  case host =>
    intro acc rest h
    rw [step_of_agenda_cons h, moveStep_host]
  case idle =>
    intro rest h hidle
    exact (step_of_agenda_cons h).trans (moveStep_sequencer_idle hidle)
  case default =>
    intro h
    rw [step_of_agenda_nil h, defaultMove_eq]
  case running =>
    intro l p i hrun hd
    refine ⟨fun rest h => (step_of_agenda_cons h).trans (moveStep_sequencer_exec hrun hd), fun h hp => ?_⟩
    rw [step_of_agenda_nil h, defaultMove_eq, if_pos hp, moveStep_sequencer_exec hrun hd]

/-- Settles O14, register by register; DBUF_SIZE is the only one whose value rests on the stated sizes. -/
theorem registerReadsReturn : Obligations.RegisterReadsReturn := by
  intro s h
  have hread := hostStep_read_reg h
  have hdbuf := hread .dbufSize
  rw [regRead_dbufSize h] at hdbuf
  simp only [List.forall_mem_cons]
  exact ⟨hread .cmd, hread .status, hread .addr, hread .len, hread .boff, hread .crcState, hread .crcResult,
    hread .crcData, hread .valCalc, hread .valStored, hread .jedecId, hread .flashSize, hread .sectorSize,
    hread .pageSize, hread .blockSize, hdbuf, List.forall_mem_nil _⟩

end Sys2Proof.Proofs
end

section
/-! PROOFS. The statements on the state: what a host write of each register does, what a reset leaves, what each
micro-step keeps and which results it writes, the invariant that every step of every agent keeps, and the writers of
the flash array. -/

namespace Sys2Proof.Machine

open Sys2Proof.Safety

/-! ### Register writes (10_state.md R33, R45, R47) -/

/-- A word write at a register's offset is the write of that register (20_memory.md R57). -/
theorem hostStep_write_reg {s : State} (h : statedSizes s.cfg = true) (r : Reg) (v : Word) :
    hostStep (.write (regOffset r) .word v) s = .next (regWrite r v s) := by
  obtain ⟨hlt, haligned⟩ := regOffset_lt_and_aligned r
  show hostWrite _ _ _ _ = _
  rw [hostWrite, regionAt_register h hlt haligned (regAt_regOffset r), busValue_word]

/-- Every aligned offset of the register region is a register's (10_state.md R25). -/
theorem exists_regOffset {off : Nat} (hlt : off < 0x40) (haligned : off % 4 = 0) : ∃ r, regOffset r = off := by
  have hall : ∀ k < 16, ∃ r : Reg, regOffset r = 4 * k := by
    intro k hk
    interval_cases k
    exacts [⟨.cmd, rfl⟩, ⟨.status, rfl⟩, ⟨.addr, rfl⟩, ⟨.len, rfl⟩, ⟨.boff, rfl⟩, ⟨.crcState, rfl⟩, ⟨.crcResult, rfl⟩,
      ⟨.crcData, rfl⟩, ⟨.valCalc, rfl⟩, ⟨.valStored, rfl⟩, ⟨.jedecId, rfl⟩, ⟨.flashSize, rfl⟩, ⟨.sectorSize, rfl⟩,
      ⟨.pageSize, rfl⟩, ⟨.blockSize, rfl⟩, ⟨.dbufSize, rfl⟩]
  obtain ⟨r, hr⟩ := hall (off / 4) (by omega)
  exact ⟨r, by omega⟩

/-- While BUSY = 1 a write of a command or operand register only sets OVR (10_state.md R45). -/
theorem regWrite_of_busy {s : State} (hbusy : s.status.busy = true) {r : Reg}
    (hr : r ∈ [Reg.cmd, .addr, .len, .boff, .crcState, .crcData]) (v : Word) : regWrite r v s = overrun s := by
  simp only [List.mem_cons, List.not_mem_nil, or_false] at hr
  rcases hr with rfl | rfl | rfl | rfl | rfl | rfl <;> exact if_pos hbusy

/-- While BUSY = 0 a write of an operand register stores the value (10_state.md R33, R35). -/
theorem regWrite_operand_of_idle {s : State} (hidle : s.status.busy = false) (v : Word) :
    regWrite .addr v s = { s with addr := v } ∧ regWrite .len v s = { s with len := v } ∧
      regWrite .boff v s = { s with boff := v } ∧ regWrite .crcState v s = { s with crcState := v } := by
  have hb : ¬ s.status.busy = true := by simp [hidle]
  exact ⟨if_neg hb, if_neg hb, if_neg hb, if_neg hb⟩

/-! ### The bits of STATUS (10_state.md R27) -/

/-- The bits of STATUS, by the fields that stand there; every other bit is reserved (10_state.md R27, R46). -/
def statusBit (st : Status) : Nat → Bool
  | 0 => st.busy
  | 1 => st.done
  | 2 => st.ovr
  | 4 => (codeValue st.err).getLsbD 0
  | 5 => (codeValue st.err).getLsbD 1
  | 6 => (codeValue st.err).getLsbD 2
  | 7 => (codeValue st.err).getLsbD 3
  | 16 => st.magicOk
  | 17 => st.versionOk
  | 18 => st.crcOk
  | 19 => st.idOk
  | _ => false

theorem statusWord_getLsbD (st : Status) {i : Nat} (hi : i < 32) : (statusWord st).getLsbD i = statusBit st i := by
  simp only [statusWord, BitVec.getLsbD_append]
  interval_cases i <;> simp [statusBit]

theorem statusWord_err (st : Status) : (statusWord st).extractLsb' 4 4 = codeValue st.err := by
  apply BitVec.eq_of_getLsbD_eq
  intro i hi
  rw [BitVec.getLsbD_extractLsb', statusWord_getLsbD _ (by omega)]
  interval_cases i <;> simp [statusBit]

/-- The reserved bits read 0 (10_state.md R46). -/
theorem statusWord_reserved (st : Status) : statusWord st &&& 0xFFF0FF08#32 = 0#32 := by
  apply BitVec.eq_of_getLsbD_eq
  intro i hi
  rw [BitVec.getLsbD_and, statusWord_getLsbD _ hi]
  interval_cases i <;> simp [statusBit]

/-- A write of STATUS clears the bits 1 and 2 that it writes as 1 (10_state.md R27). -/
theorem statusWord_statusWrite (v : Word) (st : Status) :
    statusWord (statusWrite v st) = statusWord st &&& ~~~(v &&& 0x00000006#32) := by
  apply BitVec.eq_of_getLsbD_eq
  intro i hi
  rw [BitVec.getLsbD_and, BitVec.getLsbD_not, BitVec.getLsbD_and, statusWord_getLsbD _ hi, statusWord_getLsbD _ hi]
  interval_cases i <;> simp [statusBit, statusWrite, Bool.and_comm]

theorem statusWord_reset : statusWord Status.reset = 0#32 := by decide

/-! ### Host reads of DBUF (20_memory.md R55, 70_reset_and_hazards.md R163) -/

/-- The only byte a host read cannot see is an undefined one outside the destination of a running READ. -/
theorem hostByte_eq_none_iff {s : State} {x k : Nat} :
    hostByte s x k = none ↔ inReadDestination s x = false ∧ memGet s.dbuf x = none := by
  unfold hostByte
  cases inReadDestination s x <;> simp

theorem hostBytes_all_isSome_iff {s : State} {i n : Nat} :
    (hostBytes s i n).all Option.isSome = true ↔
      ¬ ∃ k < n, inReadDestination s (i + k) = false ∧ memGet s.dbuf (i + k) = none := by
  simp only [hostBytes, List.all_map, List.all_eq_true, List.mem_range, Function.comp_apply,
    Option.isSome_iff_ne_none, ne_eq, hostByte_eq_none_iff]
  exact ⟨fun h ⟨k, hk, hx⟩ => h k hk hx, fun h k hk hx => h ⟨k, hk, hx⟩⟩

/-- An aligned read in the DBUF window faults unless every byte of it is seen. -/
theorem hostStep_read_dbuf_fault_iff {s : State} {off i : Nat} {w : Width} (h : regionAt s.cfg off w = .dbuf i) :
    hostStep (.read off w) s = .fault .uninitDbufRead ↔
      (hostBytes s i (widthBytes w)).all Option.isSome ≠ true := by
  show hostRead off w s = _ ↔ _
  unfold hostRead
  rw [h]
  dsimp only
  split <;> simp_all

/-! ### The reset step (70_reset_and_hazards.md R154-R156) -/

/-- A reset settles the interrupted operation in the array and the draw index, and sets everything else but what it
keeps (log 24) to its reset value. -/
theorem resetStep_eq (s : State) : resetStep s =
    { s with
      cmd := 0, addr := 0, len := 0, boff := 0, crcState := Config.crcSeed, valCalc := 0, valStored := 0, jedecId := 0
      status := Status.reset, dbuf := [], seq := .idle, raced := [], issued := none
      draws := (interruptDevice s).draws
      dev := { s.dev with flash := (interruptDevice s).dev.flash, pending := none, wel := false } } := by
  unfold resetStep interruptDevice
  cases s.dev.pending <;> rfl

theorem interruptDevice_of_pending {s : State} {op : DevOp} (h : s.dev.pending = some op) :
    interruptDevice s = drawRange op s := by
  unfold interruptDevice
  rw [h]

theorem interruptDevice_of_idle {s : State} (h : s.dev.pending = none) : interruptDevice s = s := by
  unfold interruptDevice
  rw [h]

/-! ### What a transaction leaves (40_flash_controller.md R102) -/

/-- The pending operation, if any, lies in the array. -/
def PendingOk (d : Device) : Prop := ∀ op, d.pending = some op → opOk op

theorem pendingOk_of_idle {d : Device} (h : d.pending = none) : PendingOk d := by
  intro op hop
  rw [h] at hop
  cases hop

theorem pendingOk_of_pending {d : Device} {op : DevOp} (h : d.pending = some op) (hok : opOk op) : PendingOk d := by
  intro op' hop
  rw [h] at hop
  cases hop
  exact hok

/-- The draws a failed frame may leave pending lie in the range of the frame's operation. -/
theorem opOk_draws {op : DevOp} (h : opOk op) : opOk (.draws (opRange op).1 (opRange op).2) :=
  ⟨opRange_le h, opRange_le_flashSize h⟩

theorem acceptOp_pendingOk {op : DevOp} {s : State} (hop : opOk op) (hs : PendingOk s.dev) :
    PendingOk (acceptOp op s).dev := by
  unfold acceptOp
  split
  · exact pendingOk_of_pending rfl hop
  · exact hs

theorem deviceTakes_pendingOk {f : Frame} {s : State} (hf : ∀ op, frameOp s.cfg f = some op → opOk op)
    (hs : PendingOk s.dev) : PendingOk (deviceTakes f s).2.dev := by
  have hmut : PendingOk ((frameOp s.cfg f).elim s fun op => acceptOp op s).dev := by
    cases hop : frameOp s.cfg f with
    | none => exact hs
    | some op => exact acceptOp_pendingOk (hf op hop) hs
  unfold deviceTakes
  split
  · exact hs
  · split
    case h_1 => exact hs
    case h_2 => split <;> exact hs
    case h_3 => split <;> exact hs
    case h_4 => split <;> exact hs
    all_goals exact hmut

theorem transportFailure_pendingOk {f : Frame} {s : State} (hf : ∀ op, frameOp s.cfg f = some op → opOk op)
    (hs : PendingOk s.dev) : PendingOk (transportFailure f s).dev := by
  unfold transportFailure
  split
  · exact hs
  · exact hs
  · split
    · exact hs
    · next op hop =>
      split
      · exact hs
      · cases hb : Config.freeBool s.draws with
        | false => exact pendingOk_of_idle rfl
        | true => exact pendingOk_of_pending rfl (opOk_draws (hf op hop))

/-- The states `u` in which a transaction of frame `f` from `s` can end. -/
structure Transaction (f : Frame) (s u : State) : Prop extends SameBut s u where
  pending_ok : (∀ op, frameOp s.cfg f = some op → opOk op) → PendingOk s.dev → PendingOk u.dev

theorem xfer_transaction (f : Frame) (s : State) : Transaction f s (xfer f s).2 where
  toSameBut := xfer_same f s
  pending_ok := by
    intro hf hs
    by_cases h : transactionFails s
    · rw [xfer_fail h]
      exact transportFailure_pendingOk (s := sent f s) hf hs
    · rw [xfer_ok h]
      exact deviceTakes_pendingOk (s := sent f s) hf hs

theorem Transaction.bump {f : Frame} {s u : State} (h : Transaction f s u) (n : Nat) : Transaction f s (bump n u) where
  toSameBut := h.toSameBut.trans (bump_same n u)
  pending_ok := h.pending_ok

theorem Transaction.after_bump {f : Frame} {s u : State} {n : Nat} (h : Transaction f (Machine.bump n s) u) :
    Transaction f s u where
  toSameBut := (bump_same n s).trans h.toSameBut
  pending_ok := h.pending_ok

/-- From `s`, a transaction of frame `f` and the move to phase `q` give `t`. -/
def Transacts (f : Frame) (l : Latch) (q : Phase) (s t : State) : Prop :=
  ∃ u c, Transaction f s u ∧ t = { enter l q u with issued := c }

theorem Transaction.enter {f : Frame} {s u : State} (h : Transaction f s u) (l : Latch) (q : Phase) :
    Transacts f l q s (enter l q u) := ⟨u, u.issued, h, rfl⟩

theorem enter_self {l : Latch} {p : Phase} {s : State} (h : s.seq = .run l p) : enter l p s = s := by
  unfold Machine.enter
  rw [← h]

/-- A poll ends ready, failed or timed out, or polls again (40_flash_controller.md R103). -/
theorem pollStep_transacts {l : Latch} {p : Phase} {s : State} (ready : Phase) (hs : s.seq = .run l p) :
    ∃ q, Transacts .readStatus l q s (pollStep l ready s) ∧
      (q = ready ∨ q = .finish .errSpi ∨ q = .finish .errTimeout ∨ q = p) := by
  have hx := xfer_transaction .readStatus s
  unfold pollStep
  generalize xfer .readStatus s = outcome at hx ⊢
  obtain ⟨_ | reply, u⟩ := outcome
  · exact ⟨_, hx.enter l _, .inr (.inl rfl)⟩
  · dsimp only
    split
    · split
      · exact ⟨_, (hx.bump 1).enter l _, .inr (.inr (.inl rfl))⟩
      · refine ⟨p, ?_, .inr (.inr (.inr rfl))⟩
        have hself := enter_self (s := bump 1 u) (hx.seq_eq.trans hs)
        exact hself ▸ (hx.bump 1).enter l p
    · exact ⟨_, hx.enter l _, .inl rfl⟩

/-- READ's transaction receives as many bytes as it asks for (40_flash_controller.md R108). -/
theorem receiveStep_transacts (l : Latch) (a n b : Nat) (s : State) :
    ∃ bytes code, Transacts (.read (BitVec.ofNat 32 a) n) l (.deposit b bytes code) s (receiveStep l a n b s) ∧
      bytes.length = n ∧ (code = .ok ∨ code = .errSpi) := by
  have hx := xfer_transaction (.read (BitVec.ofNat 32 a) n) s
  unfold receiveStep
  by_cases h : transactionFails s
  · rw [xfer_fail h] at hx ⊢
    exact ⟨_, _, (hx.bump n).enter l _, freeBytes_length _ _, .inr rfl⟩
  · rw [xfer_ok h] at hx ⊢
    refine ⟨_, _, hx.enter l _, ?_, .inl rfl⟩
    unfold deviceTakes
    split
    · exact freeBytes_length _ _
    · dsimp only
      split
      · exact freeBytes_length _ _
      · exact flashBytes_length _ _ _

theorem writeEnableStep_transacts (l : Latch) (tmo : Budget) (op : MutOp) (rest : List MutOp) (s : State) :
    ∃ q, Transacts .writeEnable l q s (writeEnableStep l tmo op rest s) ∧
      (q = .frame tmo op rest ∨ q = .finish .errSpi) := by
  have hx := xfer_transaction .writeEnable s
  unfold writeEnableStep
  generalize xfer .writeEnable s = outcome at hx ⊢
  obtain ⟨_ | reply, u⟩ := outcome
  · exact ⟨_, hx.enter l _, .inr rfl⟩
  · exact ⟨_, hx.enter l _, .inl rfl⟩

theorem sendMutation_transacts (l : Latch) (tmo : Budget) (f : Frame) (c : Option Chunk) (rest : List MutOp)
    (s : State) : ∃ q, Transacts f l q s (sendMutation l tmo f c rest s) ∧
      (q = .postPoll tmo rest ∨ q = .finish .errSpi) := by
  have hx := xfer_transaction f s
  unfold sendMutation
  generalize xfer f s = outcome at hx ⊢
  obtain ⟨_ | reply, u⟩ := outcome
  · exact ⟨_, hx.enter l _, .inr rfl⟩
  · exact ⟨_, ⟨u, c, hx, rfl⟩, .inl rfl⟩

/-- A program chunk lies in the array, inside one page (40_flash_controller.md R109, R110). -/
def MutOp.inside : MutOp → Prop
  | .program c => c.addr < Config.flashSize ∧ c.addr % Config.pageSize + c.len ≤ Config.pageSize ∧
      c.addr + c.len ≤ Config.flashSize
  | .erase _ _ => True

/-- An erase unit that divides the array lies in it (20_memory.md R67). -/
theorem unit_le_of_dvd {a size total : Nat} (hd : size ∣ total) (ha : a < total) : a - a % size + size ≤ total := by
  obtain ⟨c, rfl⟩ := hd
  have hc : a / size + 1 ≤ c := Nat.div_lt_of_lt_mul ha
  calc a - a % size + size = size * (a / size + 1) := by
        have := Nat.div_add_mod a size
        rw [Nat.mul_succ]
        omega
    _ ≤ size * c := Nat.mul_le_mul_left _ hc

/-- BLOCK_SIZE divides the array (log 23). -/
theorem blockSize_dvd {cfg : Config} (h : configWellFormed cfg = true) : cfg.blockSize.toNat ∣ Config.flashSize := by
  simp only [configWellFormed, blockSizeOk, Bool.and_eq_true, List.any_eq_true, List.mem_range, beq_iff_eq] at h
  obtain ⟨⟨⟨k, hk, hsize⟩, -⟩, -⟩ := h
  rw [hsize, show Config.flashSize = 2 ^ 21 from rfl]
  exact Nat.pow_dvd_pow 2 (by omega)

theorem eraseRange_ok {cfg : Config} (h : configWellFormed cfg = true) (u : EraseUnit) {a : Nat}
    (ha : a < Config.flashSize) : opOk (.erase (eraseRange cfg u a).1 (eraseRange cfg u a).2) := by
  cases u with
  | sector => exact ⟨Nat.le_add_right _ _, unit_le_of_dvd (by decide) ha⟩
  | block => exact ⟨Nat.le_add_right _ _, unit_le_of_dvd (blockSize_dvd h) ha⟩
  | chip => exact ⟨Nat.zero_le _, Nat.le_refl _⟩

theorem arrayAddr_lt (a : Nat) : arrayAddr a < Config.flashSize := Nat.mod_lt _ (by decide)

theorem frameOp_eraseFrame_ok {cfg : Config} (h : configWellFormed cfg = true) (u : EraseUnit) (base : Nat) {op : DevOp}
    (hop : frameOp cfg (eraseFrame u base) = some op) : opOk op := by
  cases u with
  | sector => cases hop; exact eraseRange_ok h .sector (arrayAddr_lt _)
  | block => cases hop; exact eraseRange_ok h .block (arrayAddr_lt _)
  | chip => cases hop; exact eraseRange_ok h .chip (by decide)

theorem frameOp_pageProgram_ok {cfg : Config} (h : configWellFormed cfg = true) {c : Chunk}
    (hc : (MutOp.program c).inside) {data : List Byte} (hlen : data.length = c.len) {op : DevOp}
    (hop : frameOp cfg (.pageProgram (BitVec.ofNat 32 c.addr) data) = some op) : opOk op := by
  obtain ⟨haddr, hpage, harray⟩ := hc
  cases hop
  rw [arrayAddr_sentAddr_ofNat h haddr]
  exact ⟨hlen ▸ hpage, hlen ▸ harray⟩

/-- The frame of a `Mutate`, whose operation lies in the array (40_flash_controller.md R105). -/
theorem frameStep_transacts {l : Latch} {tmo : Budget} {op : MutOp} {rest : List MutOp} {s t : State}
    (h : frameStep l tmo op rest s = .next t) :
    ∃ f q, Transacts f l q s t ∧ (q = .postPoll tmo rest ∨ q = .finish .errSpi) ∧
      (configWellFormed s.cfg = true → op.inside → ∀ o, frameOp s.cfg f = some o → opOk o) := by
  cases op with
  | erase u base =>
    obtain ⟨q, hq, hphase⟩ := sendMutation_transacts l tmo (eraseFrame u base) none rest s
    cases h
    exact ⟨_, q, hq, hphase, fun hcfg _ _ ho => frameOp_eraseFrame_ok hcfg u base ho⟩
  | program c =>
    unfold frameStep at h
    dsimp only at h
    split at h
    · obtain ⟨q, ⟨u, i, hu, ht⟩, hphase⟩ := sendMutation_transacts l tmo
        (.pageProgram (BitVec.ofNat 32 c.addr) (chunkData c s)) (some c) rest
        (if s.raced.isEmpty then s else bump c.len s)
      cases h
      refine ⟨_, q, ⟨u, i, ?_, ht⟩, hphase, fun hcfg hin _ ho => frameOp_pageProgram_ok hcfg hin (chunkData_length c s) ho⟩
      split at hu
      · exact hu
      · exact hu.after_bump
    · cases h

/-- READ_ID's transaction and its result registers (40_flash_controller.md R115). -/
theorem identifyStep_transaction (l : Latch) (s : State) :
    ∃ u id st q, Transaction .jedecId s u ∧ identifyStep l s = enter l q { u with jedecId := id, status := st } ∧
      (id = s.jedecId ∨ ∃ reply : Word24, id = reply.setWidth 32) ∧
      (st = s.status ∨ st = statusIdentified s.status) ∧
      (q = .finish .ok ∨ q = .finish .errSpi ∨ q = .finish .errNodev) := by
  have hx := xfer_transaction .jedecId s
  unfold identifyStep
  generalize xfer .jedecId s = outcome at hx ⊢
  obtain ⟨_ | reply, u⟩ := outcome
  · exact ⟨u, u.jedecId, u.status, _, hx, rfl, .inl hx.jedecId_eq, .inl hx.status_eq, .inr (.inl rfl)⟩
  · dsimp only
    split
    · exact ⟨u, _, _, _, hx, rfl, .inr ⟨_, rfl⟩, .inr (congrArg _ hx.status_eq), .inl rfl⟩
    · exact ⟨u, _, u.status, _, hx, rfl, .inr ⟨_, rfl⟩, .inl hx.status_eq, .inr (.inr rfl)⟩

/-! ### The other micro-steps -/

theorem feedStep_next {l : Latch} {k : Nat} {s t : State} (h : feedStep l k s = .next t) :
    ∃ c q, t = enter l q { s with crcState := c } ∧
      (q = .finish .ok ∨ (q = .feed (k + 1) ∧ k + 1 < byteCount l)) := by
  unfold feedStep at h
  split at h
  · split at h
    · cases h
    · cases h
      split
      · next hk => exact ⟨_, _, rfl, .inr ⟨rfl, hk⟩⟩
      · exact ⟨_, _, rfl, .inl rfl⟩
  · cases h
    exact ⟨s.crcState, _, rfl, .inl rfl⟩

theorem judgeStep_next {l : Latch} {img : Image} {s t : State} (h : judgeStep l img s = .next t) :
    ∃ val stored magic version crc code,
      t = enter l (.finish code) { s with
        valCalc := val, valStored := stored, status := statusValidated magic version crc s.status } ∧
      (code = .ok ∨ code = .errCrc) := by
  unfold judgeStep at h
  split at h
  · cases h
    refine ⟨_, _, _, _, _, _, rfl, ?_⟩
    split
    · exact .inl rfl
    · exact .inr rfl
  · cases h

/-- What the races settled at `finish` can change, by command (70_reset_and_hazards.md R163). -/
theorem settleOf_cases (i : Instr) (c : Code) (s : State) :
    (settleOf i c s).2 = s ∨
    (i = .read ∧ (settleOf i c s).2 = (settleRead c s).2) ∨
    (i = .crcBuf ∧ ∃ w, (settleOf i c s).2 = bump 1 { s with crcState := w }) ∨
    ((i = .validateRecord ∨ i = .validateHeader) ∧ ∃ val stored magic version crc,
      (settleOf i c s).2 = bump 6 { s with
        valCalc := val, valStored := stored, status := statusValidated magic version crc s.status }) := by
  have hvalidate : (settleValidate c s).2 = s ∨ ∃ val stored magic version crc,
      (settleValidate c s).2 = bump 6 { s with
        valCalc := val, valStored := stored, status := statusValidated magic version crc s.status } := by
    unfold settleValidate
    split
    · exact .inl rfl
    · exact .inr ⟨_, _, _, _, _, rfl⟩
  cases i with
  | read => exact .inr (.inl ⟨rfl, rfl⟩)
  | crcBuf =>
    show (settleCrc c s).2 = s ∨ _ ∨ (_ ∧ ∃ w, (settleCrc c s).2 = _) ∨ _
    unfold settleCrc
    split
    · exact .inl rfl
    · exact .inr (.inr (.inl ⟨rfl, _, rfl⟩))
  | validateRecord => exact hvalidate.imp_right fun h => .inr (.inr ⟨.inl rfl, h⟩)
  | validateHeader => exact hvalidate.imp_right fun h => .inr (.inr ⟨.inr rfl, h⟩)
  | nop | progPage | write | eraseSector | eraseBlock | eraseChip | readId | crcInit => exact .inl rfl

/-! ### What every micro-step keeps (10_state.md R30, R33, R38) -/

/-- What no micro-step of any command changes. -/
structure CommandFrame (s t : State) : Prop where
  cmd_eq : t.cmd = s.cmd
  addr_eq : t.addr = s.addr
  len_eq : t.len = s.len
  boff_eq : t.boff = s.boff
  ovr_eq : t.status.ovr = s.status.ovr
  cfg_eq : t.cfg = s.cfg
  agenda_eq : t.agenda = s.agenda
  readLog_eq : t.readLog = s.readLog
  flash_eq : t.dev.flash = s.dev.flash

/-- What a micro-step that does not finish the command keeps, on its way to phase `q`. -/
structure PhaseStep (l : Latch) (q : Phase) (s t : State) : Prop extends CommandFrame s t where
  busy_eq : t.status.busy = s.status.busy
  done_eq : t.status.done = s.status.done
  err_eq : t.status.err = s.status.err
  raced_eq : t.raced = s.raced
  seq_eq : t.seq = .run l q

theorem enter_phaseStep (l : Latch) (q : Phase) (s : State) : PhaseStep l q s (enter l q s) := by
  constructor <;> constructor <;> rfl

theorem Transacts.phaseStep {f : Frame} {l : Latch} {q : Phase} {s t : State} (h : Transacts f l q s t) :
    PhaseStep l q s t := by
  obtain ⟨u, c, hu, rfl⟩ := h
  exact {
    cmd_eq := hu.cmd_eq, addr_eq := hu.addr_eq, len_eq := hu.len_eq, boff_eq := hu.boff_eq
    ovr_eq := congrArg Status.ovr hu.status_eq, cfg_eq := hu.cfg_eq, agenda_eq := hu.agenda_eq
    readLog_eq := hu.readLog_eq, flash_eq := hu.flash_eq, busy_eq := congrArg Status.busy hu.status_eq
    done_eq := congrArg Status.done hu.status_eq, err_eq := congrArg Status.err hu.status_eq
    raced_eq := hu.raced_eq, seq_eq := rfl }

theorem depositStep_phaseStep (l : Latch) (b : Nat) (bytes : List Byte) (code : Code) (s : State) :
    PhaseStep l (.finish code) s (depositStep l b bytes code s) := by
  constructor <;> constructor <;> rfl

theorem identifyStep_phaseStep {f : Frame} {l : Latch} {q : Phase} {s u : State} (id : Word) {st : Status}
    (hu : Transaction f s u) (hst : st = s.status ∨ st = statusIdentified s.status) :
    PhaseStep l q s (enter l q { u with jedecId := id, status := st }) := by
  obtain ⟨hovr, hbusy, hdone, herr⟩ : st.ovr = s.status.ovr ∧ st.busy = s.status.busy ∧
      st.done = s.status.done ∧ st.err = s.status.err := by
    rcases hst with rfl | rfl <;> exact ⟨rfl, rfl, rfl, rfl⟩
  exact {
    cmd_eq := hu.cmd_eq, addr_eq := hu.addr_eq, len_eq := hu.len_eq, boff_eq := hu.boff_eq
    ovr_eq := hovr, cfg_eq := hu.cfg_eq, agenda_eq := hu.agenda_eq, readLog_eq := hu.readLog_eq
    flash_eq := hu.flash_eq, busy_eq := hbusy, done_eq := hdone, err_eq := herr
    raced_eq := hu.raced_eq, seq_eq := rfl }

theorem seedStep_phaseStep (l : Latch) (s : State) : PhaseStep l (.finish .ok) s (seedStep l s) := by
  constructor <;> constructor <;> rfl

theorem feed_phaseStep (l : Latch) (q : Phase) (c : Word) (s : State) :
    PhaseStep l q s (enter l q { s with crcState := c }) := by
  constructor <;> constructor <;> rfl

theorem judge_phaseStep (l : Latch) (q : Phase) (val stored : Word) (magic version crc : Bool) (s : State) :
    PhaseStep l q s (enter l q { s with
      valCalc := val, valStored := stored, status := statusValidated magic version crc s.status }) := by
  constructor <;> constructor <;> rfl

theorem finish_commandFrame (i : Instr) (c d : Code) (s : State) : CommandFrame s (finish d (settleOf i c s).2) := by
  rcases settleOf_cases i c s with h | ⟨-, h⟩ | ⟨-, w, h⟩ | ⟨-, val, stored, magic, version, crc, h⟩ <;>
    rw [h] <;> constructor <;> rfl

/-- Every micro-step of every command keeps the operands, OVR, the configuration, the host's log and the array. -/
theorem microStep_commandFrame {i : Instr} {l : Latch} {p : Phase} {s t : State} (hs : s.seq = .run l p)
    (ht : microStep i l p s = .next t) : CommandFrame s t := by
  cases p with
  | decode => cases ht; exact (enter_phaseStep l _ s).toCommandFrame
  | check => cases ht; exact (enter_phaseStep l _ s).toCommandFrame
  | prePoll tmo job =>
    cases ht
    obtain ⟨q, hq, -⟩ := pollStep_transacts (afterPrePoll tmo job) hs
    exact hq.phaseStep.toCommandFrame
  | receive a n b =>
    cases ht
    obtain ⟨bytes, code, hq, -⟩ := receiveStep_transacts l a n b s
    exact hq.phaseStep.toCommandFrame
  | deposit b bytes code => cases ht; exact (depositStep_phaseStep l b bytes code s).toCommandFrame
  | identify =>
    cases ht
    obtain ⟨u, id, st, q, hu, heq, -, hst, -⟩ := identifyStep_transaction l s
    rw [heq]
    exact (identifyStep_phaseStep id hu hst).toCommandFrame
  | writeEnable tmo op rest =>
    cases ht
    obtain ⟨q, hq, -⟩ := writeEnableStep_transacts l tmo op rest s
    exact hq.phaseStep.toCommandFrame
  | frame tmo op rest =>
    obtain ⟨f, q, hq, -⟩ := frameStep_transacts ht
    exact hq.phaseStep.toCommandFrame
  | postPoll tmo rest =>
    cases ht
    obtain ⟨q, hq, -⟩ := pollStep_transacts (afterPostPoll tmo rest) hs
    exact hq.phaseStep.toCommandFrame
  | seed => cases ht; exact (seedStep_phaseStep l s).toCommandFrame
  | feed k =>
    obtain ⟨c, q, rfl, -⟩ := feedStep_next ht
    exact (feed_phaseStep l q c s).toCommandFrame
  | judge img =>
    obtain ⟨val, stored, magic, version, crc, code, rfl, -⟩ := judgeStep_next ht
    exact (judge_phaseStep l _ val stored magic version crc s).toCommandFrame
  | finish code => cases ht; exact finish_commandFrame i code _ s

theorem exec_commandFrame {i : Instr} {s t : State} (h : exec i s = .next t) : CommandFrame s t := by
  cases hs : s.seq with
  | idle =>
    rw [exec_idle i hs] at h
    cases h
    constructor <;> rfl
  | run l p => exact microStep_commandFrame hs (exec_run i hs ▸ h)

/-! ### The outcome of the parameter check (40_flash_controller.md R101) -/

/-- What the parameter check of command `i` can decide, with the bounds it has checked. -/
inductive CheckOutcome (cfg : Config) (l : Latch) : Instr → Phase → Prop
  /-- The command ends at the check. -/
  | finish (i : Instr) (c : Code) : CheckOutcome cfg l i (.finish c)
  /-- READ, its destination inside DBUF (R108). -/
  | receive (tmo : Budget) (a n b : Nat) (hdbuf : b + n ≤ cfg.dbufSize) :
      CheckOutcome cfg l .read (.prePoll tmo (.receive a n b))
  /-- A program or an erase, its operations inside the array (R109-R114). -/
  | mutate (i : Instr) (tmo : Budget) (ops : List MutOp)
      (hi : i ∈ [Instr.progPage, .write, .eraseSector, .eraseBlock, .eraseChip]) (hops : ∀ op ∈ ops, op.inside) :
      CheckOutcome cfg l i (.prePoll tmo (.mutate ops))
  /-- READ_ID (R115). -/
  | identify (tmo : Budget) : CheckOutcome cfg l .readId (.prePoll tmo .identify)
  /-- CRC_INIT (41_crc_validator.md R123). -/
  | seed : CheckOutcome cfg l .crcInit .seed
  /-- CRC_BUF over at least one byte (41_crc_validator.md R124). -/
  | feed (hn : 0 < byteCount l) : CheckOutcome cfg l .crcBuf (.feed 0)
  /-- A validation (41_crc_validator.md R127, R128). -/
  | judge (i : Instr) (img : Image) (hi : i = .validateRecord ∨ i = .validateHeader) : CheckOutcome cfg l i (.judge img)

/-- Every chunk of a transfer inside the array is inside the array and one page (40_flash_controller.md R110). -/
theorem chunksUpTo_inside {fuel a b n : Nat} (h : a + n ≤ Config.flashSize) :
    ∀ c ∈ chunksUpTo fuel a b n, (MutOp.program c).inside := by
  induction fuel generalizing a b n with
  | zero => exact fun c hc => nomatch hc
  | succ fuel ih =>
    intro c hc
    unfold chunksUpTo at hc
    split at hc
    · cases hc
    · next hn =>
      have hmod := Nat.mod_lt a (show 0 < Config.pageSize by decide)
      rcases List.mem_cons.1 hc with rfl | hc
      · refine ⟨?_, ?_, ?_⟩ <;> dsimp only <;> omega
      · exact ih (by omega) c hc

theorem planRead_outcome (cfg : Config) (l : Latch) : CheckOutcome cfg l .read (planRead cfg l) := by
  unfold planRead
  split
  · exact .finish _ _
  · next hdbuf =>
    split
    · exact .finish _ _
    · split
      · exact .finish _ _
      · exact .receive _ _ _ _ (by simpa [pastDbuf] using hdbuf)

theorem planProgPage_outcome (cfg : Config) (l : Latch) : CheckOutcome cfg l .progPage (planProgPage cfg l) := by
  unfold planProgPage
  split
  · exact .finish _ _
  · split
    · exact .finish _ _
    · next hflash =>
      split
      · exact .finish _ _
      · next hpage =>
        split
        · exact .finish _ _
        · next hn =>
          have harray : flashAddr l + byteCount l ≤ Config.flashSize := by simpa [pastFlash] using hflash
          refine .mutate _ _ _ (by decide) (List.forall_mem_singleton.2 ⟨?_, ?_, harray⟩)
          · dsimp only; omega
          · simpa [crossesPage] using hpage

theorem planWrite_outcome (cfg : Config) (l : Latch) : CheckOutcome cfg l .write (planWrite cfg l) := by
  unfold planWrite
  split
  · exact .finish _ _
  · split
    · exact .finish _ _
    · next hflash =>
      split
      · exact .finish _ _
      · refine .mutate _ _ _ (by decide) (List.forall_mem_map.2 (chunksUpTo_inside ?_))
        simpa [pastFlash] using hflash

/-- A check that only bounds the address of an erase. -/
theorem erase_outcome (cfg : Config) (l : Latch) {i : Instr} {tmo : Budget} (u : EraseUnit) (base : Nat)
    (hi : i ∈ [Instr.progPage, .write, .eraseSector, .eraseBlock, .eraseChip]) :
    CheckOutcome cfg l i (.prePoll tmo (.mutate [.erase u base])) :=
  .mutate _ _ _ hi (List.forall_mem_singleton.2 trivial)

theorem planOf_outcome (cfg : Config) (i : Instr) (l : Latch) : CheckOutcome cfg l i (planOf cfg i l) := by
  cases i with
  | nop => exact .finish _ _
  | read => exact planRead_outcome cfg l
  | progPage => exact planProgPage_outcome cfg l
  | write => exact planWrite_outcome cfg l
  | eraseSector =>
    show CheckOutcome _ _ _ (if _ then _ else _)
    split
    · exact .finish _ _
    · exact erase_outcome cfg l _ _ (by decide)
  | eraseBlock =>
    show CheckOutcome _ _ _ (if _ then _ else _)
    split
    · exact .finish _ _
    · exact erase_outcome cfg l _ _ (by decide)
  | eraseChip => exact erase_outcome cfg l _ _ (by decide)
  | readId => exact .identify _
  | crcInit => exact .seed
  | crcBuf =>
    show CheckOutcome _ _ _ (if _ then _ else if _ then _ else _)
    split
    · exact .finish _ _
    · split
      · exact .finish _ _
      · next hn => exact .feed (Nat.pos_of_ne_zero hn)
  | validateRecord =>
    show CheckOutcome _ _ _ (if _ then _ else _)
    split
    · exact .finish _ _
    · exact .judge _ _ (.inl rfl)
  | validateHeader =>
    show CheckOutcome _ _ _ (if _ then _ else _)
    split
    · exact .finish _ _
    · exact .judge _ _ (.inr rfl)

theorem planOfWord_ok {cfg : Config} {l : Latch} {i : Instr} (h : decode l.opw = .ok i) :
    planOfWord cfg l = planOf cfg i l := by
  unfold planOfWord
  rw [h]

theorem planOfWord_error {cfg : Config} {l : Latch} {e : Illegal} (h : decode l.opw = .error e) :
    planOfWord cfg l = .finish .errOpcode := by
  unfold planOfWord
  rw [h]

/-- An illegal word ends as a command that its check ends. -/
theorem planOfWord_outcome (cfg : Config) (l : Latch) : ∃ i, CheckOutcome cfg l i (planOfWord cfg l) := by
  cases h : decode l.opw with
  | ok i => exact ⟨i, planOfWord_ok h ▸ planOf_outcome cfg i l⟩
  | error e => exact ⟨.nop, planOfWord_error h ▸ .finish _ _⟩

/-- The phase after the check is one of the micro-program it starts. -/
theorem CheckOutcome.fits {cfg : Config} {l : Latch} {i : Instr} {plan : Phase} (h : CheckOutcome cfg l i plan) :
    phaseFits l plan plan := by
  cases h with
  | finish => rfl
  | receive => rfl
  | mutate => rfl
  | identify => rfl
  | seed => rfl
  | feed hn => exact ⟨rfl, hn⟩
  | judge => rfl

theorem firstOf_fits (cfg : Config) (i : Instr) (l : Latch) : phaseFits l (planOf cfg i l) (firstOf cfg i l) := by
  have hplan := (planOf_outcome cfg i l).fits
  cases i with
  | nop | crcInit | eraseChip | readId => exact hplan
  | read | progPage | write | eraseSector | eraseBlock | crcBuf | validateRecord | validateHeader => trivial

/-! ### The phases a command can be in -/

/-- The commands that make no SPI traffic (40_flash_controller.md R107, 41_crc_validator.md R123-R128). -/
abbrev offTheBus : List Instr := [.nop, .crcInit, .crcBuf, .validateRecord, .validateHeader]

theorem CheckOutcome.not_offTheBus {cfg : Config} {l : Latch} {i : Instr} {tmo : Budget} {job : Job}
    (h : CheckOutcome cfg l i (.prePoll tmo job)) : i ∉ offTheBus := by
  cases h with
  | receive => decide
  | identify => decide
  | mutate _ _ _ hi =>
    simp only [List.mem_cons, List.not_mem_nil, or_false] at hi
    rcases hi with rfl | rfl | rfl | rfl | rfl <;> decide

/-! ### The results a command writes (10_state.md R32, R34, R35, R37) -/

/-- The results that a micro-step of command `i` leaves alone. -/
structure ResultFrame (i : Instr) (s t : State) : Prop where
  crcState_eq : i ≠ .crcInit → i ≠ .crcBuf → t.crcState = s.crcState
  validation_eq : i ≠ .validateRecord → i ≠ .validateHeader →
    t.valCalc = s.valCalc ∧ t.valStored = s.valStored ∧ t.status.magicOk = s.status.magicOk ∧
      t.status.versionOk = s.status.versionOk ∧ t.status.crcOk = s.status.crcOk
  identification_eq : i ≠ .readId → t.jedecId = s.jedecId ∧ t.status.idOk = s.status.idOk
  dbuf_eq : i ≠ .read → t.dbuf = s.dbuf
  device_eq : i ∈ offTheBus → t.dev = s.dev ∧ t.spiLog = s.spiLog

theorem ResultFrame.refl (i : Instr) (s : State) : ResultFrame i s s where
  crcState_eq := fun _ _ => rfl
  validation_eq := fun _ _ => ⟨rfl, rfl, rfl, rfl, rfl⟩
  identification_eq := fun _ => ⟨rfl, rfl⟩
  dbuf_eq := fun _ => rfl
  device_eq := fun _ => ⟨rfl, rfl⟩

theorem enter_resultFrame (i : Instr) (l : Latch) (q : Phase) (s : State) : ResultFrame i s (enter l q s) :=
  { ResultFrame.refl i s with }

/-- A transaction of a command that makes SPI traffic writes no result. -/
theorem Transacts.resultFrame {f : Frame} {l : Latch} {q : Phase} {i : Instr} {s t : State} (h : Transacts f l q s t)
    (hi : i ∉ offTheBus) : ResultFrame i s t := by
  obtain ⟨u, c, hu, rfl⟩ := h
  have hst := hu.status_eq
  exact {
    crcState_eq := fun _ _ => hu.crcState_eq
    validation_eq := fun _ _ => ⟨hu.valCalc_eq, hu.valStored_eq, congrArg Status.magicOk hst,
      congrArg Status.versionOk hst, congrArg Status.crcOk hst⟩
    identification_eq := fun _ => ⟨hu.jedecId_eq, congrArg Status.idOk hst⟩
    dbuf_eq := fun _ => hu.dbuf_eq
    device_eq := fun hin => absurd hin hi }

theorem identifyStep_resultFrame (l : Latch) (s : State) : ResultFrame .readId s (identifyStep l s) := by
  obtain ⟨u, id, st, q, hu, heq, -, hst, -⟩ := identifyStep_transaction l s
  have hbits : st.magicOk = s.status.magicOk ∧ st.versionOk = s.status.versionOk ∧ st.crcOk = s.status.crcOk := by
    rcases hst with rfl | rfl <;> exact ⟨rfl, rfl, rfl⟩
  rw [heq]
  exact {
    crcState_eq := fun _ _ => hu.crcState_eq
    validation_eq := fun _ _ => ⟨hu.valCalc_eq, hu.valStored_eq, hbits⟩
    identification_eq := fun h => absurd rfl h
    dbuf_eq := fun _ => hu.dbuf_eq
    device_eq := fun h => absurd h (by decide) }

theorem finish_resultFrame (i : Instr) (c d : Code) (s : State) : ResultFrame i s (finish d (settleOf i c s).2) := by
  rcases settleOf_cases i c s with h | ⟨rfl, h⟩ | ⟨rfl, w, h⟩ | ⟨hi, val, stored, magic, version, crc, h⟩ <;> rw [h]
  · exact { ResultFrame.refl i s with }
  · exact { ResultFrame.refl .read s with dbuf_eq := fun h => absurd rfl h }
  · exact { ResultFrame.refl .crcBuf s with crcState_eq := fun _ h => absurd rfl h }
  · exact { ResultFrame.refl i s with validation_eq := fun hr hh => absurd hi (not_or.2 ⟨hr, hh⟩) }

theorem microStep_resultFrame {i : Instr} {l : Latch} {p : Phase} {s t : State} (hs : s.seq = .run l p)
    (hp : phaseFits l (planOf s.cfg i l) p) (ht : microStep i l p s = .next t) : ResultFrame i s t := by
  have hplan := planOf_outcome s.cfg i l
  generalize planOf s.cfg i l = plan at hp hplan
  cases p with
  | decode => cases ht; exact enter_resultFrame i l _ s
  | check => cases ht; exact enter_resultFrame i l _ s
  | prePoll tmo job =>
    cases ht
    obtain rfl : plan = _ := hp
    obtain ⟨q, hq, -⟩ := pollStep_transacts (afterPrePoll tmo job) hs
    exact hq.resultFrame hplan.not_offTheBus
  | receive a n b =>
    cases ht
    obtain ⟨tmo, rfl⟩ := hp
    obtain ⟨bytes, code, hq, -⟩ := receiveStep_transacts l a n b s
    exact hq.resultFrame hplan.not_offTheBus
  | deposit b bytes code =>
    cases ht
    obtain ⟨⟨tmo, a, rfl⟩, -⟩ := hp
    cases hplan
    exact { ResultFrame.refl .read s with dbuf_eq := fun h => absurd rfl h }
  | identify =>
    cases ht
    obtain ⟨tmo, rfl⟩ := hp
    cases hplan
    exact identifyStep_resultFrame l s
  | writeEnable tmo op rest =>
    cases ht
    obtain ⟨ops, rfl, -⟩ := hp
    obtain ⟨q, hq, -⟩ := writeEnableStep_transacts l tmo op rest s
    exact hq.resultFrame hplan.not_offTheBus
  | frame tmo op rest =>
    obtain ⟨ops, rfl, -⟩ := hp
    obtain ⟨f, q, hq, -⟩ := frameStep_transacts ht
    exact hq.resultFrame hplan.not_offTheBus
  | postPoll tmo rest =>
    cases ht
    obtain ⟨ops, rfl, -⟩ := hp
    obtain ⟨q, hq, -⟩ := pollStep_transacts (afterPostPoll tmo rest) hs
    exact hq.resultFrame hplan.not_offTheBus
  | seed =>
    cases ht
    obtain rfl : plan = _ := hp
    cases hplan
    exact { ResultFrame.refl .crcInit s with crcState_eq := fun h => absurd rfl h }
  | feed k =>
    obtain ⟨rfl, -⟩ := hp
    cases hplan
    obtain ⟨c, q, rfl, -⟩ := feedStep_next ht
    exact { ResultFrame.refl .crcBuf s with crcState_eq := fun _ h => absurd rfl h }
  | judge img =>
    obtain rfl : plan = _ := hp
    obtain ⟨val, stored, magic, version, crc, code, rfl, -⟩ := judgeStep_next ht
    cases hplan with
    | judge _ _ hi =>
      exact { ResultFrame.refl i s with validation_eq := fun hr hh => absurd hi (not_or.2 ⟨hr, hh⟩) }
  | finish code => cases ht; exact finish_resultFrame i code _ s

/-! ### The invariant over a micro-step (10_state.md R42, R43) -/

/-- A micro-step that does not finish the command keeps the invariant if it keeps the memories, the pending
operation and JEDEC_ID well formed and goes to a phase of the micro-program. -/
theorem inv_of_phaseStep {l : Latch} {p q : Phase} {s t : State} (h : Inv s) (hs : s.seq = .run l p)
    (hstep : PhaseStep l q s t) (hq : phaseFits l (planOfWord s.cfg l) q) (hdbuf : dbufWf s.cfg.dbufSize t.dbuf)
    (hpending : PendingOk t.dev) (hjedec : t.jedecId.extractLsb' 24 8 = 0#8) : Inv t where
  cfg_ok := hstep.cfg_eq ▸ h.cfg_ok
  flash_wf := hstep.flash_eq ▸ h.flash_wf
  dbuf_wf := hstep.cfg_eq ▸ hdbuf
  busy_iff := by
    have hbusy := h.busy_iff
    rw [hs] at hbusy
    rw [hstep.busy_eq, hstep.seq_eq, hbusy]
    simp
  busy_clear := by
    rw [hstep.busy_eq, hstep.done_eq, hstep.err_eq]
    exact h.busy_clear
  jedec_reserved := hjedec
  latch_eq := by
    intro l' p' hrun
    rw [hstep.seq_eq] at hrun
    cases hrun
    rw [hstep.cmd_eq, hstep.addr_eq, hstep.len_eq, hstep.boff_eq]
    exact h.latch_eq l p hs
  phase_ok := by
    intro l' p' hrun
    rw [hstep.seq_eq] at hrun
    cases hrun
    exact hstep.cfg_eq ▸ hq
  pending_ok := hpending
  raced_ok := by
    rw [hstep.raced_eq, hstep.cfg_eq]
    exact h.raced_ok

/-- A transaction whose frame asks for an operation inside the array keeps the invariant. -/
theorem inv_of_transacts {f : Frame} {l : Latch} {p q : Phase} {s t : State} (h : Inv s) (hs : s.seq = .run l p)
    (ht : Transacts f l q s t) (hf : ∀ op, frameOp s.cfg f = some op → opOk op)
    (hq : phaseFits l (planOfWord s.cfg l) q) : Inv t := by
  have hstep := ht.phaseStep
  obtain ⟨u, c, hu, rfl⟩ := ht
  exact inv_of_phaseStep h hs hstep hq (show dbufWf _ u.dbuf from hu.dbuf_eq ▸ h.dbuf_wf)
    (hu.pending_ok hf h.pending_ok) (show u.jedecId.extractLsb' 24 8 = _ from hu.jedecId_eq ▸ h.jedec_reserved)

/-- A micro-step that leaves the memories, the device and JEDEC_ID alone keeps the invariant. -/
theorem inv_of_quiet_phaseStep {l : Latch} {p q : Phase} {s t : State} (h : Inv s) (hs : s.seq = .run l p)
    (hstep : PhaseStep l q s t) (hq : phaseFits l (planOfWord s.cfg l) q)
    (hkept : t.dbuf = s.dbuf ∧ t.dev = s.dev ∧ t.jedecId = s.jedecId) : Inv t := by
  obtain ⟨hdbuf, hdev, hjedec⟩ := hkept
  exact inv_of_phaseStep h hs hstep hq (hdbuf ▸ h.dbuf_wf) (hdev ▸ h.pending_ok) (hjedec ▸ h.jedec_reserved)

/-- DBUF stays canonical under stores at raced indices (70_reset_and_hazards.md R163). -/
theorem foldl_memSet_wf {size : Nat} (ps : List (Nat × Byte)) (hps : ∀ p ∈ ps, p.1 < size) {m : Memory}
    (h : dbufWf size m) : dbufWf size (ps.foldl (fun m p => memSet m p.1 p.2) m) := by
  induction ps generalizing m with
  | nil => exact h
  | cons p ps ih =>
    rw [List.forall_mem_cons] at hps
    exact ih hps.2 (dbuf_memSet_wf h hps.1 p.2)

/-- The races settled at `finish` keep the invariant. -/
theorem inv_settleOf {s : State} (h : Inv s) (i : Instr) (c : Code) : Inv (settleOf i c s).2 := by
  rcases settleOf_cases i c s with heq | ⟨-, heq⟩ | ⟨-, w, heq⟩ | ⟨-, val, stored, magic, version, crc, heq⟩ <;> rw [heq]
  · exact h
  · exact { h with
      dbuf_wf := foldl_memSet_wf _ (fun p hp => h.raced_ok p.1 (List.of_mem_zip hp).1) h.dbuf_wf }
  · exact { h with }
  · exact { h with }

/-- `finish` keeps the invariant (40_flash_controller.md R100). -/
theorem inv_finish {s : State} (h : Inv s) (c : Code) : Inv (finish c s) where
  cfg_ok := h.cfg_ok
  flash_wf := h.flash_wf
  dbuf_wf := h.dbuf_wf
  busy_iff := by simp
  busy_clear := by simp
  jedec_reserved := h.jedec_reserved
  latch_eq := fun _ _ hrun => nomatch hrun
  phase_ok := fun _ _ hrun => nomatch hrun
  pending_ok := h.pending_ok
  raced_ok := fun _ hx => nomatch hx

/-- Every command that polls the device can end OK, with a failed transaction or with a timeout. -/
theorem phaseFits_finish_prePoll (l : Latch) (tmo : Budget) (job : Job) {c : Code}
    (hc : c = .ok ∨ c = .errSpi ∨ c = .errTimeout) : phaseFits l (.prePoll tmo job) (.finish c) := by
  show codeFits (.prePoll tmo job) c
  cases job with
  | receive | mutate => exact hc
  | identify => exact hc.imp_right (·.imp_right .inl)

theorem phaseFits_afterPrePoll (l : Latch) (tmo : Budget) (job : Job) :
    phaseFits l (.prePoll tmo job) (afterPrePoll tmo job) := by
  match job with
  | .receive a n b => exact ⟨tmo, rfl⟩
  | .identify => exact ⟨tmo, rfl⟩
  | .mutate [] => exact phaseFits_finish_prePoll l tmo _ (.inl rfl)
  | .mutate (op :: rest) => exact ⟨_, rfl, List.suffix_refl _⟩

theorem phaseFits_afterPostPoll (l : Latch) (tmo : Budget) {rest ops : List MutOp} (h : rest <:+ ops) :
    phaseFits l (.prePoll tmo (.mutate ops)) (afterPostPoll tmo rest) := by
  cases rest with
  | nil => exact phaseFits_finish_prePoll l tmo _ (.inl rfl)
  | cons op rest => exact ⟨ops, rfl, h⟩

/-- A poll that leads to a phase of the micro-program keeps the invariant. -/
theorem inv_pollStep {l : Latch} {p ready : Phase} {s : State} {tmo : Budget} {job : Job} (h : Inv s)
    (hs : s.seq = .run l p) (hplan : planOfWord s.cfg l = .prePoll tmo job)
    (hready : phaseFits l (.prePoll tmo job) ready) : Inv (pollStep l ready s) := by
  have hphase := h.phase_ok l p hs
  obtain ⟨q, hq, hcases⟩ := pollStep_transacts ready hs
  refine inv_of_transacts h hs hq (fun _ hop => nomatch hop) ?_
  rw [hplan] at hphase ⊢
  rcases hcases with rfl | rfl | rfl | rfl
  · exact hready
  · exact phaseFits_finish_prePoll l tmo job (.inr (.inl rfl))
  · exact phaseFits_finish_prePoll l tmo job (.inr (.inr rfl))
  · exact hphase

/-- The identification of a reply leaves the reserved bits of JEDEC_ID 0 (10_state.md R46). -/
theorem replyId_reserved (reply : Word24) : (reply.setWidth 32).extractLsb' 24 8 = 0#8 := by
  apply BitVec.eq_of_getLsbD_eq
  intro i hi
  simp [BitVec.getLsbD_extractLsb', BitVec.getLsbD_setWidth]

theorem inv_identifyStep {l : Latch} {p : Phase} {s : State} {tmo : Budget} (h : Inv s) (hs : s.seq = .run l p)
    (hplan : planOfWord s.cfg l = .prePoll tmo .identify) : Inv (identifyStep l s) := by
  obtain ⟨u, id, st, q, hu, heq, hid, hst, hq⟩ := identifyStep_transaction l s
  rw [heq]
  refine inv_of_phaseStep h hs (identifyStep_phaseStep id hu hst) ?phase (show dbufWf _ u.dbuf from hu.dbuf_eq ▸ h.dbuf_wf)
    (hu.pending_ok (fun _ hop => nomatch hop) h.pending_ok) ?jedec
  case phase =>
    rw [hplan]
    rcases hq with rfl | rfl | rfl <;> simp [phaseFits, codeFits]
  case jedec =>
    rcases hid with rfl | ⟨reply, rfl⟩
    · exact h.jedec_reserved
    · exact replyId_reserved reply

/-- Every micro-step of a legal command keeps the invariant, and so does every one that an illegal word shares with
the commands, all but its decode step and its check. -/
theorem inv_microStep {i : Instr} {l : Latch} {p : Phase} {s t : State} (h : Inv s) (hs : s.seq = .run l p)
    (hi : p = .decode ∨ p = .check → decode l.opw = .ok i) (ht : microStep i l p s = .next t) : Inv t := by
  have hp := h.phase_ok l p hs
  obtain ⟨j, hplan⟩ := planOfWord_outcome s.cfg l
  cases p with
  | decode =>
    cases ht
    refine inv_of_quiet_phaseStep h hs (enter_phaseStep l _ s) ?_ ⟨rfl, rfl, rfl⟩
    exact planOfWord_ok (hi (.inl rfl)) ▸ firstOf_fits s.cfg i l
  | check =>
    cases ht
    refine inv_of_quiet_phaseStep h hs (enter_phaseStep l _ s) ?_ ⟨rfl, rfl, rfl⟩
    exact planOfWord_ok (hi (.inr rfl)) ▸ hplan.fits
  | prePoll tmo job =>
    cases ht
    exact inv_pollStep h hs hp (phaseFits_afterPrePoll l tmo job)
  | receive a n b =>
    cases ht
    obtain ⟨tmo, hword⟩ := hp
    obtain ⟨bytes, code, hq, rfl, hcode⟩ := receiveStep_transacts l a n b s
    exact inv_of_transacts h hs hq (fun _ hop => nomatch hop) ⟨⟨tmo, a, hword⟩, hcode⟩
  | deposit b bytes code =>
    cases ht
    obtain ⟨⟨tmo, a, hword⟩, hcode⟩ := hp
    refine inv_of_phaseStep h hs (depositStep_phaseStep l b bytes code s) ?_ ?_ h.pending_ok h.jedec_reserved
    · rw [hword]
      exact hcode.imp_right .inl
    · rw [hword] at hplan
      cases hplan with
      | receive _ _ _ _ hdbuf => exact dbufStore_wf h.dbuf_wf b bytes hdbuf
  | identify =>
    cases ht
    obtain ⟨tmo, hword⟩ := hp
    exact inv_identifyStep h hs hword
  | writeEnable tmo op rest =>
    cases ht
    obtain ⟨ops, hword, hsuffix⟩ := hp
    obtain ⟨q, hq, hcases⟩ := writeEnableStep_transacts l tmo op rest s
    refine inv_of_transacts h hs hq (fun _ hop => nomatch hop) ?_
    rcases hcases with rfl | rfl
    · exact ⟨ops, hword, hsuffix⟩
    · exact hword ▸ phaseFits_finish_prePoll l tmo _ (.inr (.inl rfl))
  | frame tmo op rest =>
    obtain ⟨ops, hword, hsuffix⟩ := hp
    obtain ⟨f, q, hq, hcases, hop⟩ := frameStep_transacts ht
    have hinside : op.inside := by
      rw [hword] at hplan
      cases hplan with
      | mutate _ _ _ _ hops => exact hops op (hsuffix.mem List.mem_cons_self)
    refine inv_of_transacts h hs hq (hop h.cfg_ok hinside) ?_
    rcases hcases with rfl | rfl
    · exact ⟨ops, hword, (List.suffix_cons op rest).trans hsuffix⟩
    · exact hword ▸ phaseFits_finish_prePoll l tmo _ (.inr (.inl rfl))
  | postPoll tmo rest =>
    cases ht
    obtain ⟨ops, hword, hsuffix⟩ := hp
    exact inv_pollStep h hs hword (phaseFits_afterPostPoll l tmo hsuffix)
  | seed =>
    cases ht
    exact inv_of_quiet_phaseStep h hs (seedStep_phaseStep l s) ((congrArg (codeFits · .ok) hp).mpr rfl) ⟨rfl, rfl, rfl⟩
  | feed k =>
    obtain ⟨hword, -⟩ := hp
    obtain ⟨c, q, rfl, hcases⟩ := feedStep_next ht
    refine inv_of_quiet_phaseStep h hs (feed_phaseStep l q c s) ?_ ⟨rfl, rfl, rfl⟩
    rw [hword]
    rcases hcases with rfl | ⟨rfl, hk⟩
    · rfl
    · exact ⟨rfl, hk⟩
  | judge img =>
    obtain ⟨val, stored, magic, version, crc, code, rfl, hcode⟩ := judgeStep_next ht
    exact inv_of_quiet_phaseStep h hs (judge_phaseStep l _ val stored magic version crc s)
      ((congrArg (codeFits · code) hp).mpr hcode) ⟨rfl, rfl, rfl⟩
  | finish code => cases ht; exact inv_finish (inv_settleOf h i code) _

/-- What the sequencer's move can be: nothing when Idle, a micro-step of a command, or the first micro-step of an
illegal word (40_flash_controller.md R98, R99). -/
theorem sequencerStep_next {s t : State} (h : sequencerStep s = .next t) :
    t = s ∨ ∃ l p, s.seq = .run l p ∧
      ((∃ i, (p = .decode ∨ p = .check → decode l.opw = .ok i) ∧ microStep i l p s = .next t) ∨
        ((∃ e, decode l.opw = .error e) ∧ t = enter l (.finish .errOpcode) s)) := by
  unfold sequencerStep at h
  cases hs : s.seq with
  | idle =>
    rw [hs] at h
    cases h
    exact .inl rfl
  | run l p =>
    rw [hs] at h
    dsimp only at h
    refine .inr ⟨l, p, rfl, ?_⟩
    cases hd : decode l.opw with
    | ok i =>
      rw [hd] at h
      exact .inl ⟨i, fun _ => rfl, exec_run i hs ▸ h⟩
    | error e =>
      rw [hd] at h
      dsimp only at h
      rw [runIllegal_run hs] at h
      split at h
      · cases h
        exact .inr ⟨⟨e, rfl⟩, rfl⟩
      · next hp => exact .inl ⟨.nop, fun hp' => absurd hp' hp, h⟩

theorem inv_sequencerStep {s t : State} (h : Inv s) (ht : sequencerStep s = .next t) : Inv t := by
  rcases sequencerStep_next ht with rfl | ⟨l, p, hs, ⟨i, hi, hm⟩ | ⟨⟨e, hd⟩, rfl⟩⟩
  · exact h
  · exact inv_microStep h hs hi hm
  · refine inv_of_quiet_phaseStep h hs (enter_phaseStep l _ s) ?_ ⟨rfl, rfl, rfl⟩
    rw [planOfWord_error hd]
    rfl

/-! ### The invariant over the other agents -/

/-- The invariant reads nothing of the device but the array and the pending operation. -/
theorem inv_withDevice {s : State} (h : Inv s) {d : Device} (n : Nat) (hflash : flashWf d.flash) (hpending : PendingOk d) :
    Inv { s with dev := d, draws := n } := { h with flash_wf := hflash, pending_ok := hpending }

theorem opAddrs_lt {op : DevOp} (h : opOk op) : ∀ a ∈ opAddrs op, a < Config.flashSize := by
  intro a ha
  rw [opAddrs_eq_range' h, List.mem_range'_1] at ha
  have := opRange_le h
  have := opRange_le_flashSize h
  omega

theorem drawRange_flashWf {op : DevOp} {s : State} (h : opOk op) (hs : flashWf s.dev.flash) :
    flashWf (drawRange op s).dev.flash := flashWriteAt_wf hs _ _ (opAddrs_lt h)

theorem applyOp_flashWf {op : DevOp} {s : State} (h : opOk op) (hs : flashWf s.dev.flash) :
    flashWf (applyOp op s).dev.flash := by
  cases op with
  | program a d =>
    unfold applyOp
    dsimp only
    split
    · exact flashWriteAt_wf hs _ _ (opAddrs_lt h)
    · exact drawRange_flashWf h hs
  | erase lo hi => exact flash_memClear_wf hs lo hi
  | draws lo hi => exact drawRange_flashWf h hs

/-- The completed operation keeps the invariant (20_memory.md R71). -/
theorem inv_complete {s : State} {op : DevOp} (h : Inv s) (hop : opOk op) : Inv (settleDevice (applyOp op s)) := by
  have hframe : settleDevice (applyOp op s) = { s with
      dev := { s.dev with flash := (applyOp op s).dev.flash, pending := none, wel := false }
      draws := (applyOp op s).draws } := by
    rw [applyOp_frame]
    rfl
  rw [hframe]
  exact inv_withDevice h _ (applyOp_flashWf hop h.flash_wf) (pendingOk_of_idle rfl)

theorem inv_deviceStep {s : State} (h : Inv s) : Inv (deviceStep s) := by
  have hbump : Inv (bump 1 s) := { h with }
  cases hp : s.dev.pending with
  | none => exact (deviceStep_idle hp).symm ▸ h
  | some op =>
    have hop := h.pending_ok op hp
    cases hu : devUnprotected s.dev with
    | true =>
      rw [deviceStep_unprotected hp hu]
      exact inv_complete h hop
    | false =>
      rw [deviceStep_protected hp hu]
      split
      · exact inv_withDevice hbump _ h.flash_wf (pendingOk_of_idle rfl)
      · exact inv_complete hbump hop

theorem inv_resetStep {s : State} (h : Inv s) : Inv (resetStep s) := by
  have hflash : flashWf (interruptDevice s).dev.flash := by
    cases hp : s.dev.pending with
    | none => exact (interruptDevice_of_idle hp).symm ▸ h.flash_wf
    | some op => exact (interruptDevice_of_pending hp).symm ▸ drawRange_flashWf (h.pending_ok op hp) h.flash_wf
  rw [resetStep_eq]
  exact {
    cfg_ok := h.cfg_ok
    flash_wf := hflash
    dbuf_wf := ⟨List.Pairwise.nil, fun _ hc => nomatch hc⟩
    busy_iff := by simp
    busy_clear := by simp
    jedec_reserved := show (0#32).extractLsb' 24 8 = 0#8 by decide
    latch_eq := fun _ _ hrun => nomatch hrun
    phase_ok := fun _ _ hrun => nomatch hrun
    pending_ok := fun _ hop => nomatch hop
    raced_ok := fun _ hx => nomatch hx }

/-- While BUSY = 0 no command runs, so the invariant does not tie the operand registers to a latch. -/
theorem seq_idle_of_not_busy {s : State} (h : Inv s) (hb : ¬ s.status.busy = true) : s.seq = .idle := by
  by_contra hseq
  exact hb (h.busy_iff.2 hseq)

theorem inv_overrun {s : State} (h : Inv s) : Inv (overrun s) := { h with }

theorem inv_accept {s : State} (h : Inv s) (w : Word) : Inv (accept w s) where
  cfg_ok := h.cfg_ok
  flash_wf := h.flash_wf
  dbuf_wf := h.dbuf_wf
  busy_iff := by simp
  busy_clear := by simp
  jedec_reserved := h.jedec_reserved
  latch_eq := by
    intro l p hrun
    cases hrun
    rfl
  phase_ok := by
    intro l p hrun
    cases hrun
    trivial
  pending_ok := h.pending_ok
  raced_ok := fun _ hx => nomatch hx

/-- A write of STATUS clears DONE and OVR only (10_state.md R27). -/
theorem inv_statusWrite {s : State} (h : Inv s) (v : Word) : Inv { s with status := statusWrite v s.status } :=
  { h with
    busy_clear := by
      intro hb
      obtain ⟨hdone, herr⟩ := h.busy_clear hb
      exact ⟨by simp [hdone], herr⟩ }

/-- A write of an operand register while BUSY = 0 keeps the invariant. -/
theorem inv_operandWrite {s : State} (h : Inv s) (hb : ¬ s.status.busy = true) (a n b c : Word) :
    Inv { s with addr := a, len := n, boff := b, crcState := c } :=
  { h with
    latch_eq := by
      intro l p hrun
      exact nomatch (seq_idle_of_not_busy h hb).symm.trans hrun }

theorem inv_regWrite {s : State} (h : Inv s) (r : Reg) (v : Word) : Inv (regWrite r v s) := by
  have hguarded {t : State} (ht : ¬ s.status.busy = true → Inv t) : Inv (if s.status.busy then overrun s else t) := by
    split
    · exact inv_overrun h
    · next hb => exact ht hb
  cases r with
  | cmd => exact hguarded fun _ => inv_accept h v
  | status => exact inv_statusWrite h v
  | addr => exact hguarded fun hb => inv_operandWrite h hb v s.len s.boff s.crcState
  | len => exact hguarded fun hb => inv_operandWrite h hb s.addr v s.boff s.crcState
  | boff => exact hguarded fun hb => inv_operandWrite h hb s.addr s.len v s.crcState
  | crcState => exact hguarded fun hb => inv_operandWrite h hb s.addr s.len s.boff v
  | crcData => exact hguarded fun hb => inv_operandWrite h hb s.addr s.len s.boff _
  | crcResult | valCalc | valStored | jedecId | flashSize | sectorSize | pageSize | blockSize | dbufSize => exact h

/-- A racing byte of the array, or of the pending program, keeps its place (70_reset_and_hazards.md R163). -/
theorem inv_redrawFlash {s : State} (h : Inv s) {a : Nat} (ha : a < Config.flashSize) : Inv (redrawFlash a s) :=
  inv_withDevice h _ (flashWrite_wf h.flash_wf ha _) h.pending_ok

theorem inv_redrawProgram {s : State} (h : Inv s) (l : Latch) (c : Chunk) (x : Nat) : Inv (redrawProgram l c x s) := by
  by_cases hp : (∃ a d, s.dev.pending = some (.program a d)) ∧ c.boff ≤ x
  · obtain ⟨⟨a, d, hp⟩, hx⟩ := hp
    obtain ⟨hpage, harray⟩ := h.pending_ok _ hp
    rw [redrawProgram_of_pending hp hx]
    exact inv_withDevice h _ h.flash_wf (pendingOk_of_pending rfl ⟨by simpa using hpage, by simpa using harray⟩)
  · rw [redrawProgram_of_completed]
    · exact inv_redrawFlash h (arrayAddr_lt _)
    · by_cases hx : c.boff ≤ x
      · exact .inl fun a d hpend => hp ⟨⟨a, d, hpend⟩, hx⟩
      · exact .inr (by omega)

theorem inv_redrawIssued {s : State} (h : Inv s) (x : Nat) : Inv (redrawIssued x s) := by
  unfold redrawIssued
  split
  · split
    · exact inv_redrawProgram h _ _ _
    · exact h
  · exact h

theorem inv_raceWrite {s : State} (h : Inv s) {x : Nat} (hx : x < s.cfg.dbufSize) : Inv (raceWrite x s) := by
  unfold raceWrite
  split
  · refine inv_redrawIssued (s := { s with raced := if s.raced.contains x then s.raced else x :: s.raced })
      { h with raced_ok := ?_ } x
    dsimp only
    split
    · exact h.raced_ok
    · exact List.forall_mem_cons.2 ⟨hx, h.raced_ok⟩
  · exact h

theorem raceWrite_cfg (x : Nat) (s : State) : (raceWrite x s).cfg = s.cfg := by
  unfold raceWrite
  split
  · rw [redrawIssued_frame]
  · rfl

theorem inv_hostStore (vs : List Byte) {i : Nat} {s : State} (h : Inv s) (hi : i + vs.length ≤ s.cfg.dbufSize) :
    Inv (hostStore i vs s) := by
  induction vs generalizing i s with
  | nil => exact h
  | cons v vs ih =>
    rw [List.length_cons] at hi
    have hstored : Inv { s with dbuf := memSet s.dbuf i v } :=
      { h with dbuf_wf := dbuf_memSet_wf h.dbuf_wf (by omega) v }
    refine ih (inv_raceWrite hstored (show i < s.cfg.dbufSize by omega)) ?_
    rw [raceWrite_cfg]
    show i + 1 + vs.length ≤ s.cfg.dbufSize
    omega

/-- The DBUF accesses the bus takes are aligned and lie inside the window (20_memory.md R57). -/
theorem regionAt_eq_dbuf {cfg : Config} {off i : Nat} {w : Width} (h : regionAt cfg off w = .dbuf i) :
    i = off - 0x1000 ∧ 0x1000 ≤ off ∧ off < 0x1000 + cfg.dbufSize ∧ off % widthBytes w = 0 := by
  unfold regionAt at h
  split at h
  · cases h
  · split at h
    · split at h
      · split at h <;> cases h
      · cases h
    · split at h
      · next hwindow =>
        split at h
        · next haligned =>
          exact ⟨(Region.dbuf.inj h).symm, hwindow.1, hwindow.2, haligned⟩
        · cases h
      · cases h

theorem dbufSize_dvd {cfg : Config} (h : configWellFormed cfg = true) : cfg.dbufSize % 4 = 0 := by
  simp only [configWellFormed, dbufSizeOk, Bool.and_eq_true, beq_iff_eq] at h
  exact h.1.2.1

@[simp] theorem valueBytes_length (v : Word) (w : Width) : (valueBytes v w).length = widthBytes w := by
  simp [valueBytes]

/-- An access inside the window lies in DBUF with all its bytes (20_memory.md R57). -/
theorem regionAt_dbuf_le {cfg : Config} (hcfg : configWellFormed cfg = true) {off i : Nat} {w : Width}
    (h : regionAt cfg off w = .dbuf i) : i + widthBytes w ≤ cfg.dbufSize := by
  obtain ⟨hi, hlo, hhi, haligned⟩ := regionAt_eq_dbuf h
  have hsize := dbufSize_dvd hcfg
  cases w <;> simp only [widthBytes] at haligned ⊢ <;> omega

/-- A host read changes the host's log and the draw index (20_memory.md R78). -/
theorem hostStep_read_next {off : Nat} {w : Width} {s t : State} (h : hostStep (.read off w) s = .next t) :
    ∃ v n, t = { s with readLog := v :: s.readLog, draws := n } := by
  replace h : hostRead off w s = .next t := h
  unfold hostRead at h
  split at h
  · cases h
    exact ⟨_, s.draws, rfl⟩
  · split at h
    · cases h
      exact ⟨_, _, rfl⟩
    · cases h
  · cases h

/-- A host write is the write of a register, or a store in DBUF (20_memory.md R56, R57). -/
theorem hostStep_write_next {off : Nat} {w : Width} {v : Word} {s t : State}
    (h : hostStep (.write off w v) s = .next t) :
    (∃ r, t = regWrite r (busValue w v) s) ∨
      (∃ i, regionAt s.cfg off w = .dbuf i ∧ t = hostStore i (valueBytes v w) s) := by
  replace h : hostWrite off w v s = .next t := h
  unfold hostWrite at h
  split at h
  · cases h
    exact .inl ⟨_, rfl⟩
  · next i hregion =>
    cases h
    exact .inr ⟨i, hregion, rfl⟩
  · cases h

theorem inv_hostStep {acc : Access} {s t : State} (h : Inv s) (ht : hostStep acc s = .next t) : Inv t := by
  cases acc with
  | read off w =>
    obtain ⟨v, n, rfl⟩ := hostStep_read_next ht
    exact { h with }
  | write off w v =>
    rcases hostStep_write_next ht with ⟨r, rfl⟩ | ⟨i, hregion, rfl⟩
    · exact inv_regWrite h _ _
    · exact inv_hostStore _ h (by simpa using regionAt_dbuf_le h.cfg_ok hregion)

theorem inv_moveStep {m : Move} {s t : State} (h : Inv s) (ht : moveStep m s = .next t) : Inv t := by
  cases m with
  | host acc => exact inv_hostStep h ht
  | sequencer => exact inv_sequencerStep h ht
  | device => cases ht; exact inv_deviceStep h
  | reset => cases ht; exact inv_resetStep h

/-! ### The writers of the flash array (10_state.md R38, 70_reset_and_hazards.md R163) -/

/-- No move of the sequencer writes the array. -/
theorem sequencerStep_flash {s t : State} (h : sequencerStep s = .next t) : t.dev.flash = s.dev.flash := by
  rcases sequencerStep_next h with rfl | ⟨l, p, hs, ⟨i, -, hm⟩ | ⟨-, rfl⟩⟩
  · rfl
  · exact (microStep_commandFrame hs hm).flash_eq
  · rfl

theorem regWrite_dev (r : Reg) (v : Word) (s : State) : (regWrite r v s).dev = s.dev := by
  have hguarded {t : State} (ht : t.dev = s.dev) : (if s.status.busy then overrun s else t).dev = s.dev := by
    split
    · rfl
    · exact ht
  cases r with
  | cmd | addr | len | boff | crcState | crcData => exact hguarded rfl
  | status | crcResult | valCalc | valStored | jedecId | flashSize | sectorSize | pageSize | blockSize | dbufSize => rfl

/-- A racing byte whose program frame has not been sent leaves the device alone. -/
theorem raceWrite_dev_of_not_sent {s : State} (h : programLatch s = none ∨ s.issued = none) (x : Nat) :
    (raceWrite x s).dev = s.dev := by
  unfold raceWrite
  split
  · rw [redrawIssued_of_not_sent]
    exact h.imp_right .inl
  · rfl

/-- A racing byte changes at most the byte of the array that stands for it. -/
theorem raceWrite_flash_changed {s : State} {x a : Nat}
    (h : flashRead (raceWrite x s).dev.flash a ≠ flashRead s.dev.flash a) :
    ∃ l, programLatch s = some l ∧ inBusyRange s x = true ∧ a = arrayAddr (flashAddr l + (x - dbufOffset l)) := by
  unfold raceWrite at h
  split at h
  · next hrange =>
    unfold redrawIssued at h
    split at h
    · next l c hl hc =>
      refine ⟨l, hl, hrange, ?_⟩
      by_contra hne
      split at h
      · unfold redrawProgram at h
        have hredraw {u : State} (hu : u.dev = s.dev) : flashRead
            (redrawFlash (arrayAddr (flashAddr l + (x - dbufOffset l))) u).dev.flash a = flashRead s.dev.flash a := by
          rw [flashRead_redrawFlash, if_neg (fun heq => hne heq.symm), hu]
        split at h
        · split at h
          · exact h rfl
          · exact h (hredraw rfl)
        · exact h (hredraw rfl)
      · exact h rfl
    · exact absurd rfl h
  · exact absurd rfl h

/-- A store does not touch the running command, so it races with the same command throughout. -/
theorem hostStore_running (vs : List Byte) (i : Nat) (s : State) :
    programLatch (hostStore i vs s) = programLatch s ∧ inBusyRange (hostStore i vs s) = inBusyRange s ∧
      (hostStore i vs s).issued = s.issued := by
  rw [hostStore_frame]
  exact ⟨rfl, rfl, rfl⟩

theorem hostStore_dev_of_not_sent (vs : List Byte) (i : Nat) {s : State}
    (h : programLatch s = none ∨ s.issued = none) : (hostStore i vs s).dev = s.dev := by
  induction vs generalizing i s with
  | nil => rfl
  | cons v vs ih =>
    obtain ⟨hlatch, -, hissued⟩ := hostStore_running [v] i s
    have htail := ih (i + 1) (s := hostStore i [v] s) (by rwa [hlatch, hissued])
    exact htail.trans (raceWrite_dev_of_not_sent (s := { s with dbuf := memSet s.dbuf i v }) h i)

/-- A store changes at most the bytes of the array that stand for its racing bytes. -/
theorem hostStore_flash_changed (vs : List Byte) (i : Nat) {s : State} {a : Nat}
    (h : flashRead (hostStore i vs s).dev.flash a ≠ flashRead s.dev.flash a) :
    ∃ l k, programLatch s = some l ∧ k < vs.length ∧ inBusyRange s (i + k) = true ∧
      a = arrayAddr (flashAddr l + (i + k - dbufOffset l)) := by
  induction vs generalizing i s with
  | nil => exact absurd rfl h
  | cons v vs ih =>
    obtain ⟨hlatch, hrange, -⟩ := hostStore_running [v] i s
    by_cases hfirst : flashRead (hostStore i [v] s).dev.flash a = flashRead s.dev.flash a
    · obtain ⟨l, k, hl, hk, hx, ha⟩ := ih (i + 1) (s := hostStore i [v] s) (hfirst ▸ h)
      rw [show i + 1 + k = i + (k + 1) by omega] at hx ha
      exact ⟨l, k + 1, hlatch ▸ hl, Nat.succ_lt_succ hk, hrange ▸ hx, ha⟩
    · obtain ⟨l, hl, hx, ha⟩ := raceWrite_flash_changed (s := { s with dbuf := memSet s.dbuf i v }) hfirst
      exact ⟨l, 0, hl, Nat.succ_pos _, hx, ha⟩

/-- The moves that never write the array: the sequencer's, host reads, and host writes with no program frame sent. -/
theorem moveStep_flash {m : Move} {s t : State} (hdev : m ≠ .device) (hreset : m ≠ .reset) (h : moveStep m s = .next t)
    (hsent : programLatch s = none ∨ s.issued = none ∨ ∀ off w v, m ≠ .host (.write off w v)) :
    t.dev.flash = s.dev.flash := by
  match m, hdev, hreset with
  | .sequencer, _, _ => exact sequencerStep_flash h
  | .host (.read off w), _, _ =>
    obtain ⟨v, n, rfl⟩ := hostStep_read_next h
    rfl
  | .host (.write off w v), _, _ =>
    rcases hostStep_write_next h with ⟨r, rfl⟩ | ⟨i, -, rfl⟩
    · rw [regWrite_dev]
    · rw [hostStore_dev_of_not_sent]
      exact hsent.imp_right fun hs => hs.resolve_right fun hw => hw off w v rfl

/-- A changed byte of the array stands for a racing byte of a host write. -/
theorem moveStep_flash_changed {m : Move} {s t : State} (hdev : m ≠ .device) (hreset : m ≠ .reset)
    (h : moveStep m s = .next t) {a : Nat} (ha : flashRead t.dev.flash a ≠ flashRead s.dev.flash a) :
    ∃ l off w v k, programLatch s = some l ∧ m = .host (.write off w v) ∧ k < widthBytes w ∧
      inBusyRange s (off - 0x1000 + k) = true ∧
      a = arrayAddr (flashAddr l + (off - 0x1000 + k - dbufOffset l)) := by
  have hother (hm : ∀ off w v, m ≠ .host (.write off w v)) : flashRead t.dev.flash a = flashRead s.dev.flash a := by
    rw [moveStep_flash hdev hreset h (.inr (.inr hm))]
  match m, hdev, hreset with
  | .sequencer, _, _ => exact absurd (hother fun _ _ _ => nofun) ha
  | .host (.read off w), _, _ => exact absurd (hother fun _ _ _ => nofun) ha
  | .host (.write off w v), _, _ =>
    rcases hostStep_write_next h with ⟨r, rfl⟩ | ⟨i, hregion, rfl⟩
    · rw [regWrite_dev] at ha
      exact absurd rfl ha
    · obtain ⟨l, k, hl, hk, hrange, haddr⟩ := hostStore_flash_changed _ i ha
      obtain ⟨hi, -⟩ := regionAt_eq_dbuf hregion
      rw [hi] at hrange haddr
      exact ⟨l, off, w, v, k, hl, rfl, by simpa using hk, hrange, haddr⟩

end Sys2Proof.Machine

namespace Sys2Proof.Proofs

open Sys2Proof.Machine Sys2Proof.Safety

/-- Settles O10: each offset is a register's, a DBUF byte write outside the running command's range stores its byte,
and reads return `regRead`. -/
theorem accessesWhileBusyAndReadOnlyWrites : Obligations.AccessesWhileBusyAndReadOnlyWrites := by
  intro s v h
  have hwrite (r : Reg) := hostStep_write_reg h r v
  refine ⟨?readOnly, fun hbusy => ⟨?turnedAway, hwrite .status, ?dbuf, ?reads⟩⟩
  case readOnly =>
    simp only [List.forall_mem_cons]
    exact ⟨hwrite .crcResult, hwrite .valCalc, hwrite .valStored, hwrite .jedecId, hwrite .flashSize,
      hwrite .sectorSize, hwrite .pageSize, hwrite .blockSize, hwrite .dbufSize, List.forall_mem_nil _⟩
  case turnedAway =>
    have hover {r : Reg} (hr : r ∈ [Reg.cmd, .addr, .len, .boff, .crcState, .crcData]) :
        hostStep (.write (regOffset r) .word v) s = .next (overrun s) := by
      rw [hwrite, regWrite_of_busy hbusy hr]
    simp only [List.forall_mem_cons]
    exact ⟨hover (r := .cmd) (by decide), hover (r := .addr) (by decide), hover (r := .len) (by decide),
      hover (r := .boff) (by decide), hover (r := .crcState) (by decide), hover (r := .crcData) (by decide),
      List.forall_mem_nil _⟩
  case dbuf =>
    intro x hx hrange
    have hbyte : valueBytes v .byte = [v.setWidth 8] := rfl
    rw [hostStep_write_dbuf h (w := .byte) v hx (Nat.mod_one x), hbyte, hostStore_of_not_inBusyRange]
    · rfl
    · intro k hk
      obtain rfl : k = 0 := by simpa using hk
      exact hrange
  case reads =>
    intro off hlt haligned
    obtain ⟨r, rfl⟩ := exists_regOffset hlt haligned
    exact ⟨r, regAt_regOffset r, hostStep_read_reg h r⟩

/-- Settles O11: each write is the register's own, and BUSY = 0 lets it store the whole word. -/
theorem operandRegistersStoreEveryBit : Obligations.OperandRegistersStoreEveryBit := by
  intro s v h hidle
  obtain ⟨haddr, hlen, hboff, hcrc⟩ := regWrite_operand_of_idle hidle v
  exact ⟨haddr ▸ hostStep_write_reg h .addr v, hlen ▸ hostStep_write_reg h .len v,
    hboff ▸ hostStep_write_reg h .boff v, hcrc ▸ hostStep_write_reg h .crcState v⟩

/-- Settles O12, bit by bit. -/
theorem statusBitsAndWrite : Obligations.StatusBitsAndWrite := by
  intro s v h
  have hbit {i : Nat} (hi : i < 32) := statusWord_getLsbD s.status hi
  exact ⟨⟨hbit (by decide), hbit (by decide), hbit (by decide), statusWord_err _, hbit (by decide), hbit (by decide),
    hbit (by decide), hbit (by decide), statusWord_reserved _⟩,
    statusWrite v s.status, hostStep_write_reg h .status v, statusWord_statusWrite v s.status⟩

/-- Settles O17: the read faults unless the host sees every byte, and `hostByte_eq_none_iff` says which it does not. -/
theorem hostReadFaultsOnUndefinedDbuf : Obligations.HostReadFaultsOnUndefinedDbuf := by
  intro s i w h hi haligned
  have hm : i % widthBytes w = 0 := by cases w <;> simp only [widthBytes] at haligned ⊢ <;> omega
  rw [hostStep_read_dbuf_fault_iff (regionAt_dbuf h hi hm), ne_eq, hostBytes_all_isSome_iff, not_not]

/-- Settles O51: the interrupted range is drawn byte by byte, and nothing else of the array changes. -/
theorem resetStepEffects : Obligations.ResetStepEffects := by
  intro s hok
  refine ⟨resetStep s, rfl, ?frame, ?_, ?_, ?nothingPending, ?interrupted⟩
  case frame => rw [resetStep_eq]; rfl
  · rw [resetStep_eq]; exact statusWord_reset
  · rw [resetStep_eq]; exact fun _ => rfl
  case nothingPending =>
    intro hp
    rw [resetStep_eq, interruptDevice_of_idle hp]
  case interrupted =>
    intro op hp
    have hflash : (resetStep s).dev.flash = (drawRange op s).dev.flash := by
      rw [resetStep_eq, interruptDevice_of_pending hp]
    have hread := flashRead_drawRange (hok op hp) s
    rw [hflash]
    exact ⟨fun x hx => (hread x).trans (if_neg (by omega)), fun x hlo hhi => (hread x).trans (if_pos ⟨hlo, hhi⟩)⟩

/-- Settles O52: the reads of O14, at the reset state. -/
theorem resetRegistersRead : Obligations.ResetRegistersRead :=
  ⟨registerReadsReturn State.reset (by decide), rfl, rfl, rfl, fun _ => rfl⟩

/-- Settles O53: the memories are empty, the sequencer is Idle and nothing is pending. -/
theorem resetMeetsInvariant : Obligations.ResetMeetsInvariant where
  cfg_ok := by decide
  flash_wf := reset_memories_wf.1
  dbuf_wf := reset_memories_wf.2
  busy_iff := by decide
  busy_clear := by decide
  jedec_reserved := by decide
  latch_eq := fun _ _ h => nomatch h
  phase_ok := fun _ _ h => nomatch h
  pending_ok := fun _ h => nomatch h
  raced_ok := fun _ h => nomatch h

/-- Settles O57: no micro-step leaves the frame of the commands. -/
theorem commandsNeverWriteOperands : Obligations.CommandsNeverWriteOperands := by
  intro i s t h
  have hf := exec_commandFrame h
  exact ⟨hf.cmd_eq, hf.addr_eq, hf.len_eq, hf.boff_eq, hf.ovr_eq, hf.cfg_eq, hf.agenda_eq, hf.readLog_eq⟩

/-- Settles O58: by the invariant the phase is one of the command's, and each phase writes its own results. -/
theorem resultsWrittenOnlyByTheirCommands : Obligations.ResultsWrittenOnlyByTheirCommands := by
  intro i s t l p hinv hs hd ht
  have hp := hinv.phase_ok l p hs
  rw [planOfWord_ok hd] at hp
  have h := microStep_resultFrame hs hp (exec_run i hs ▸ ht)
  exact ⟨h.crcState_eq, h.validation_eq, h.identification_eq, h.dbuf_eq, h.device_eq⟩

/-- Settles O55: a step is a move of one agent, and every move of every agent keeps the invariant. -/
theorem everyStepKeepsInvariant : Obligations.EveryStepKeepsInvariant := by
  intro s t h ht
  cases hagenda : s.agenda with
  | nil => exact inv_moveStep h (step_of_agenda_nil hagenda ▸ ht)
  | cons m rest => exact inv_moveStep (s := { s with agenda := rest }) { h with } (step_of_agenda_cons hagenda ▸ ht)

/-- Settles O56: the sequencer and host reads leave the array alone, and a host write changes it byte by byte only
through races. -/
theorem flashChangesOnlyByDeviceResetOrRace : Obligations.FlashChangesOnlyByDeviceResetOrRace := by
  intro s t m hdev hreset h
  exact ⟨moveStep_flash hdev hreset h, fun _ ha => moveStep_flash_changed hdev hreset h ha⟩

end Sys2Proof.Proofs
end

section
/-! PROOFS. The statements on the memories: the frames on the wire, the DBUF window and the refused accesses, what
the device does with a frame and at its completion step, and the whole runs of the commands that read, program or
erase the flash array. -/

namespace Sys2Proof.Machine

open Sys2Proof.Safety

/-! ### Little-endian words (00_scope.md R18) -/

/-- Bits `[8 * j, 8 * (j + n))` of a word, assembled from its bytes. -/
theorem leWord_map_byteOf (v : Word) (j : Nat) {n : Nat} (hn : n ≤ 4) :
    leWord ((List.range n).map fun k => byteOf v (j + k)) = (v.extractLsb' (8 * j) (8 * n)).setWidth 32 := by
  set vs := (List.range n).map fun k => byteOf v (j + k) with hvs
  have hlen : vs.length = n := by simp [hvs]
  apply BitVec.eq_of_getLsbD_eq
  intro i hi
  rw [BitVec.getLsbD_setWidth, BitVec.getLsbD_extractLsb']
  by_cases hin : i < 8 * n
  · have hmod : i % 8 < 8 := Nat.mod_lt _ (by decide)
    have hword := congrArg (·.getLsbD (i % 8)) (leWord_extractLsb' vs (by omega) (i / 8) (by omega))
    have hbyte : vs[i / 8]'(by omega) = byteOf v (j + i / 8) := by simp [hvs]
    simp only [hbyte, byteOf, BitVec.getLsbD_extractLsb', hmod, decide_true, Bool.true_and, Nat.div_add_mod] at hword
    rw [hword, show 8 * (j + i / 8) + i % 8 = 8 * j + i by omega]
    simp [hi, hin]
  · have hlt := leWord_toNat_lt vs (by omega)
    have hhigh : (leWord vs).getLsbD i = false :=
      Nat.testBit_lt_two_pow (hlt.trans_le (Nat.pow_le_pow_right (by decide) (by omega)))
    simp [hhigh, hin]

/-! ### Frames on the wire (20_memory.md R62, R75) -/

/-- A frame address is three or four bytes, which hold every bit of the SPI address. -/
theorem addrByteCount_cases {cfg : Config} (h : configWellFormed cfg = true) :
    (addrByteCount cfg = 3 ∧ cfg.spiAddrBits = 24) ∨ (addrByteCount cfg = 4 ∧ cfg.spiAddrBits = 32) := by
  simp only [configWellFormed, spiAddrOk, Bool.and_eq_true, Bool.or_eq_true, beq_iff_eq] at h
  obtain ⟨-, h | h⟩ := h
  · exact .inl ⟨by rw [addrByteCount, h], h⟩
  · exact .inr ⟨by rw [addrByteCount, h], h⟩

@[simp] theorem addrBytes_length (cfg : Config) (a : Word) : (addrBytes cfg a).length = addrByteCount cfg := by
  simp [addrBytes]

/-- The address bytes of a frame hold the address. -/
theorem leWord_addrBytes {cfg : Config} (h : configWellFormed cfg = true) {a : Word}
    (ha : a.toNat < 2 ^ cfg.spiAddrBits) : leWord (addrBytes cfg a).reverse = a := by
  have hcount := addrByteCount_cases h
  have hword := leWord_map_byteOf a 0 (n := addrByteCount cfg) (by omega)
  simp only [Nat.zero_add] at hword
  rw [addrBytes, ← List.map_reverse, List.reverse_reverse, hword]
  apply BitVec.eq_of_toNat_eq
  have hbits : 8 * addrByteCount cfg = cfg.spiAddrBits := by omega
  rw [BitVec.toNat_setWidth, BitVec.extractLsb'_toNat, hbits, Nat.mul_zero, Nat.shiftRight_zero, Nat.mod_eq_of_lt ha,
    Nat.mod_eq_of_lt a.isLt]

/-- How a reader of the wire takes an opcode with an address and data behind it. -/
theorem parseFrame_addressed {cfg : Config} (h : configWellFormed cfg = true) {a : Word}
    (ha : a.toNat < 2 ^ cfg.spiAddrBits) (op : Byte) (data : List Byte) (nin : Nat) :
    parseFrame cfg (op :: (addrBytes cfg a ++ data)) nin =
      if op = 0x02#8 then some (.pageProgram a data)
      else if data ≠ [] then none
      else if op = 0x03#8 then some (.read a nin)
      else if op = 0x20#8 then some (.sectorErase a)
      else if op = 0xD8#8 then some (.blockErase a)
      else none := by
  have hlen := addrBytes_length cfg a
  have hcount := addrByteCount_cases h
  have hne : addrBytes cfg a ++ data ≠ [] := by
    refine List.append_ne_nil_of_left_ne_nil (List.ne_nil_of_length_pos ?_) _
    omega
  unfold parseFrame
  dsimp only
  rw [if_neg hne, if_neg (by simp), List.take_left' hlen, List.drop_left' hlen, leWord_addrBytes h ha]

/-! ### The accesses the bus refuses (20_memory.md R57, R58) -/

theorem hostStep_write_busError_iff {s : State} {off : Nat} {w : Width} {v : Word} :
    hostStep (.write off w v) s = .fault (.busError off) ↔ regionAt s.cfg off w = .refused := by
  show hostWrite off w v s = _ ↔ _
  unfold hostWrite
  split <;> simp_all

theorem hostStep_read_busError_iff {s : State} {off : Nat} {w : Width} :
    hostStep (.read off w) s = .fault (.busError off) ↔ regionAt s.cfg off w = .refused := by
  show hostRead off w s = _ ↔ _
  unfold hostRead
  split
  · simp_all
  · split <;> simp_all
  · simp_all

/-- At the stated sizes: no aligned word of the register region, a misaligned DBUF access, or outside both. -/
theorem regionAt_eq_refused_iff {c : Config} (h : statedSizes c = true) (off : Nat) (w : Width) :
    regionAt c off w = .refused ↔
      (off < 0x40 ∧ (w ≠ .word ∨ off % 4 ≠ 0)) ∨ (0x40 ≤ off ∧ off < 0x1000) ∨
        (0x1000 ≤ off ∧ off < 0x2000 ∧ off % widthBytes w ≠ 0) ∨ 0x2000 ≤ off := by
  obtain ⟨hsize, hbus, hreg, -⟩ := statedSizes_iff.1 h
  have hwide : ¬ 32 < 8 * widthBytes w := by cases w <;> decide
  have hword : 8 * widthBytes w = 32 ↔ w = .word := by cases w <;> decide
  unfold regionAt
  rw [hsize, hbus, hreg, if_neg hwide]
  simp only [hword]
  by_cases hlow : off < 0x40
  · rw [if_pos hlow]
    by_cases haligned : w = .word ∧ off % 4 = 0
    · obtain ⟨rfl, hmod⟩ := haligned
      obtain ⟨r, rfl⟩ := exists_regOffset hlow hmod
      rw [if_pos ⟨rfl, hmod⟩, regAt_regOffset]
      simp only [reduceCtorEq, false_iff, ne_eq, not_true_eq_false, false_or]
      omega
    · rw [if_neg haligned]
      simp only [true_iff]
      exact .inl ⟨hlow, not_and_or.1 haligned⟩
  · rw [if_neg hlow]
    by_cases hwindow : 0x1000 ≤ off ∧ off < 0x1000 + 4096
    · rw [if_pos hwindow]
      by_cases haligned : off % widthBytes w = 0
      · rw [if_pos haligned]
        simp only [reduceCtorEq, false_iff]
        omega
      · rw [if_neg haligned]
        simp only [true_iff]
        omega
    · rw [if_neg hwindow]
      simp only [true_iff]
      omega

/-! ### Host reads (20_memory.md R55, R78) -/

/-- The value a host read returns is the newest in the log (log 17). -/
def logRead (v : Word) (s : State) : State := { s with readLog := v :: s.readLog }

/-- What a host read sees of DBUF bytes outside the destination of a running READ. -/
theorem hostBytes_of_not_inReadDestination {s : State} {i n : Nat}
    (h : ∀ k < n, inReadDestination s (i + k) = false) :
    hostBytes s i n = (List.range n).map fun k => memGet s.dbuf (i + k) := by
  refine List.map_congr_left fun k hk => ?_
  rw [hostByte, h k (List.mem_range.1 hk)]
  rfl

theorem hostReadDraws_of_not_inReadDestination {s : State} {i n : Nat}
    (h : ∀ k < n, inReadDestination s (i + k) = false) : hostReadDraws s i n = 0 := by
  refine if_neg ?_
  simp only [List.any_eq_true, List.mem_range, not_exists, not_and]
  exact fun k hk => by simp [h k hk]

/-- A read of a register, and a read of seen DBUF bytes: every way a host read can go on. -/
theorem hostStep_read_cases {off : Nat} {w : Width} {s t : State} (h : hostStep (.read off w) s = .next t) :
    (∃ r, regionAt s.cfg off w = .reg r ∧ t = logRead (busValue w (regRead r s)) s) ∨
    (∃ i, regionAt s.cfg off w = .dbuf i ∧ (hostBytes s i (widthBytes w)).all Option.isSome = true ∧
      t = bump (hostReadDraws s i (widthBytes w))
        (logRead (leWord ((hostBytes s i (widthBytes w)).map (Option.getD · 0))) s)) := by
  replace h : hostRead off w s = .next t := h
  unfold hostRead at h
  split at h
  · next r hr =>
    cases h
    exact .inl ⟨r, hr, rfl⟩
  · next i hi =>
    split at h
    · next hall =>
      cases h
      exact .inr ⟨i, hi, hall, rfl⟩
    · cases h
  · cases h

theorem hostStep_read_of_reg {off : Nat} {w : Width} {r : Reg} {s : State} (h : regionAt s.cfg off w = .reg r) :
    hostStep (.read off w) s = .next (logRead (busValue w (regRead r s)) s) := by
  show hostRead off w s = _
  unfold hostRead
  rw [h]
  rfl

/-- A read of defined DBUF bytes outside the destination of a running READ makes no draw and sees the bytes held. -/
theorem hostStep_read_of_dbuf {off i : Nat} {w : Width} {s : State} (h : regionAt s.cfg off w = .dbuf i)
    (hrange : ∀ k < widthBytes w, inReadDestination s (i + k) = false)
    (hdef : ∀ k < widthBytes w, memGet s.dbuf (i + k) ≠ none) :
    hostStep (.read off w) s = .next (logRead (leWord (dbufBytes s.dbuf i (widthBytes w))) s) := by
  have hall : (hostBytes s i (widthBytes w)).all Option.isSome = true :=
    hostBytes_all_isSome_iff.2 fun ⟨k, hk, _, hnone⟩ => hdef k hk hnone
  show hostRead off w s = _
  unfold hostRead
  rw [h]
  dsimp only
  rw [if_pos hall, hostReadDraws_of_not_inReadDestination hrange, hostBytes_of_not_inReadDestination hrange,
    List.map_map]
  rfl

theorem regRead_logRead (r : Reg) (v : Word) (s : State) : regRead r (logRead v s) = regRead r s := by
  cases r <;> rfl

/-- Outside the destination of a running READ the same read again returns the same value (20_memory.md R78). -/
theorem hostStep_read_repeats {off : Nat} {w : Width} {s t : State} (h : hostStep (.read off w) s = .next t)
    (hread : ∀ x, inReadDestination s x = false) :
    ∃ v, t = logRead v s ∧ hostStep (.read off w) t = .next (logRead v t) := by
  rcases hostStep_read_cases h with ⟨r, hr, rfl⟩ | ⟨i, hi, hall, -⟩
  · refine ⟨_, rfl, ?_⟩
    rw [hostStep_read_of_reg (s := logRead _ s) hr, regRead_logRead]
  · have hdef : ∀ k < widthBytes w, memGet s.dbuf (i + k) ≠ none := fun k hk hnone =>
      hostBytes_all_isSome_iff.1 hall ⟨k, hk, hread _, hnone⟩
    rw [hostStep_read_of_dbuf hi (fun _ _ => hread _) hdef] at h
    cases h
    exact ⟨_, rfl, hostStep_read_of_dbuf (s := logRead _ s) hi (fun _ _ => hread _) hdef⟩

/-! ### A stored value in DBUF (20_memory.md R55, R56) -/

/-- Byte `k` of a value stored at index `i`. -/
theorem memGet_dbufStore_valueBytes (m : Memory) (i : Nat) (v : Word) {w : Width} {k : Nat} (hk : k < widthBytes w) :
    memGet (dbufStore m i (valueBytes v w)) (i + k) = some (byteOf v k) := by
  rw [memGet_dbufStore, dif_pos (by simp; omega)]
  simp [valueBytes]

/-- The bytes from byte `k` on of a value stored at index `i`, as a little-endian word. -/
theorem leWord_dbufBytes_valueBytes (m : Memory) (i : Nat) (v : Word) {w u : Width} {k : Nat}
    (hk : k + widthBytes u ≤ widthBytes w) :
    leWord (dbufBytes (dbufStore m i (valueBytes v w)) (i + k) (widthBytes u)) =
      (v.extractLsb' (8 * k) (8 * widthBytes u)).setWidth 32 := by
  rw [← leWord_map_byteOf v k (n := widthBytes u) (by cases u <;> decide), dbufBytes]
  congr 1
  refine List.map_congr_left fun j hj => ?_
  have hj' := List.mem_range.1 hj
  rw [dbufByte, Nat.add_assoc, memGet_dbufStore_valueBytes m i v (by omega)]
  rfl

/-! ### What the device does (20_memory.md R66-R74) -/

/-- A read inside the array meets no wrap (20_memory.md R66, R73). -/
theorem flashBytes_inside {m : Memory} {a n : Nat} (h : a + n ≤ Config.flashSize) :
    flashBytes m a n = (List.range n).map fun i => flashRead m (a + i) := by
  refine List.map_congr_left fun i hi => ?_
  have hi' := List.mem_range.1 hi
  rw [arrayAddr, Nat.mod_eq_of_lt (by omega)]

/-- A byte of an operation's range after its effect (20_memory.md R67-R69, 40_flash_controller.md R102). -/
def completedByte (s : State) (x : Nat) : DevOp → Byte
  | .erase _ _ => Config.erasedByte
  | .draws lo _ => Config.freeByte (s.draws + (x - lo))
  | .program a d =>
    if ∀ j < d.length, flashRead s.dev.flash (a + j) = Config.erasedByte then d.getD (x - a) 0
    else Config.freeByte (s.draws + (x - a))

theorem flashRead_applyOp_inside {op : DevOp} (h : opOk op) (s : State) {x : Nat} (hlo : (opRange op).1 ≤ x)
    (hhi : x < (opRange op).2) : flashRead (applyOp op s).dev.flash x = completedByte s x op := by
  cases op with
  | erase lo hi => exact (flashRead_memClear _ _ _ _).trans (if_pos ⟨hlo, hhi⟩)
  | draws lo hi => exact (flashRead_drawRange h s x).trans (if_pos ⟨hlo, hhi⟩)
  | program a d =>
    by_cases herased : programErased s.dev.flash a d = true
    · rw [flashRead_applyOp_program h herased, if_pos ⟨hlo, hhi⟩, completedByte,
        if_pos ((programErased_iff h).1 herased)]
    · rw [completedByte, if_neg (mt (programErased_iff h).2 herased), applyOp, if_neg herased]
      exact (flashRead_drawRange h s x).trans (if_pos ⟨hlo, hhi⟩)

/-- An operation's effect depends on the array and the draw index only. -/
theorem applyOp_congr (op : DevOp) {s t : State} (hflash : s.dev.flash = t.dev.flash) (hdraws : s.draws = t.draws) :
    (applyOp op s).dev.flash = (applyOp op t).dev.flash ∧ (applyOp op s).draws = (applyOp op t).draws := by
  cases op with
  | erase lo hi => simp [applyOp, hflash, hdraws]
  | draws lo hi => simp [applyOp, drawRange, hflash, hdraws]
  | program a d =>
    unfold applyOp
    dsimp only
    rw [hflash]
    split
    · exact ⟨rfl, hdraws⟩
    · simp [drawRange, hflash, hdraws]

/-- A completion step with its effect; on a protected device the draw that admits it comes first (log 7). -/
theorem deviceStep_effect {op : DevOp} {s : State} (hp : s.dev.pending = some op)
    (h : devUnprotected s.dev = true ∨ Config.freeBool s.draws = false) :
    deviceStep s = settleDevice (applyOp op (bump (if devUnprotected s.dev = true then 0 else 1) s)) := by
  by_cases hu : devUnprotected s.dev = true
  · rw [deviceStep_unprotected hp hu, if_pos hu]
    rfl
  · have hdraw : Config.freeBool s.draws = false := h.resolve_left hu
    rw [deviceStep_protected hp (by simpa using hu), if_neg hu, if_neg (by simp [hdraw])]

/-- On a protected device a draw may leave the array as it is (20_memory.md R74). -/
theorem deviceStep_no_effect {op : DevOp} {s : State} (hp : s.dev.pending = some op)
    (hu : devUnprotected s.dev = false) (hdraw : Config.freeBool s.draws = true) :
    deviceStep s = settleDevice (bump 1 s) := by
  rw [deviceStep_protected hp hu, if_pos hdraw]

/-! ### The frames of the erases (20_memory.md R67, 40_flash_controller.md R112-R114) -/

theorem frameOp_eraseFrame {cfg : Config} (h : configWellFormed cfg = true) (u : EraseUnit) {base : Nat}
    (hbase : base < Config.flashSize) :
    frameOp cfg (eraseFrame u base) = some (.erase (eraseRange cfg u base).1 (eraseRange cfg u base).2) := by
  cases u with
  | sector => rw [eraseFrame, frameOp, arrayAddr_sentAddr_ofNat h hbase]
  | block => rw [eraseFrame, frameOp, arrayAddr_sentAddr_ofNat h hbase]
  | chip => rfl

/-- The base of the block that holds `a`, for a block size that is a power of two (30_encoding.md R91). -/
theorem blockBase_eq {size : Word} {k : Nat} (hsize : size.toNat = 2 ^ k) (a : Word) :
    blockBase size a = a.toNat / size.toNat * size.toNat := by
  have hmask : (size - 1#32).toNat = 2 ^ k - 1 := by
    have := size.isLt
    have := Nat.two_pow_pos k
    rw [BitVec.toNat_sub_of_le, hsize]
    · rfl
    · rw [BitVec.le_def, hsize]
      exact this
  apply Nat.eq_of_testBit_eq
  intro i
  rw [hsize, ← Nat.shiftRight_eq_div_pow, ← Nat.shiftLeft_eq, Nat.testBit_shiftLeft, Nat.testBit_shiftRight]
  show (a &&& ~~~(size - 1#32)).getLsbD i = _
  rw [BitVec.getLsbD_and, BitVec.getLsbD_not]
  show (a.getLsbD i && (decide (i < 32) && !(size - 1#32).toNat.testBit i)) = _
  rw [hmask, Nat.testBit_two_pow_sub_one]
  by_cases hi : k ≤ i
  · rw [Nat.add_sub_cancel' hi]
    show _ = (decide (i ≥ k) && a.getLsbD i)
    by_cases hw : i < 32
    · simp [hi, hw]
    · simp [BitVec.getLsbD_of_ge a i (by omega)]
  · simp [hi, show i < k by omega]

/-- The size of an erase unit (20_memory.md R67). -/
def unitSize (cfg : Config) : EraseUnit → Nat
  | .sector => Config.sectorSize
  | .block => cfg.blockSize.toNat
  | .chip => Config.flashSize

/-- The unit that holds an address of the array. -/
theorem eraseRange_eq (cfg : Config) (u : EraseUnit) {a : Nat} (ha : a < Config.flashSize) :
    eraseRange cfg u a =
      (a / unitSize cfg u * unitSize cfg u, a / unitSize cfg u * unitSize cfg u + unitSize cfg u) := by
  cases u with
  | sector => rw [eraseRange, unitSize, Nat.div_mul_self_eq_mod_sub_self]
  | block => rw [eraseRange, unitSize, Nat.div_mul_self_eq_mod_sub_self]
  | chip => rw [eraseRange, unitSize, Nat.div_eq_of_lt ha, Nat.zero_mul, Nat.zero_add]

theorem sectorBase_eq (a : Word) : sectorBase a = a.toNat / 4096 * 4096 :=
  blockBase_eq (size := 4096#32) (k := 12) rfl a

/-- The addresses of the unit that holds `a` are those with its quotient. -/
theorem unit_mem_iff {size : Nat} (hsize : 0 < size) (a x : Nat) :
    a / size * size ≤ x ∧ x < a / size * size + size ↔ x / size = a / size := by
  rw [Nat.div_eq_iff hsize]
  omega

/-! ### READ's transaction (40_flash_controller.md R108) -/

/-- READ's transaction on an idle fitted device, inside the array: everything it can do. -/
theorem receiveStep_idle {l : Latch} {a n b : Nat} {s : State} (hcfg : configWellFormed s.cfg = true)
    (hle : a + n ≤ Config.flashSize) (h : s.dev.fitted ≠ none) (hp : s.dev.pending = none) :
    receiveStep l a n b s =
      if transactionFails s then
        enter l (.deposit b (freeBytes (s.draws + 1) n) .errSpi) (bump n (sent (.read (BitVec.ofNat 32 a) n) s))
      else
        enter l (.deposit b ((List.range n).map fun i => flashRead s.dev.flash (a + i)) .ok)
          (sent (.read (BitVec.ofNat 32 a) n) s) := by
  unfold receiveStep
  by_cases hx : transactionFails s
  · rw [xfer_fail hx, if_pos hx, transportFailure_of_no_effect rfl (by simp)]
    rfl
  · rw [xfer_ok hx, if_neg hx, deviceTakes_read (s := sent (.read (BitVec.ofNat 32 a) n) s) h hp]
    have haddr : sentAddr (sent (.read (BitVec.ofNat 32 a) n) s).cfg (BitVec.ofNat 32 a) = a :=
      sentAddr_ofNat hcfg (by omega)
    rw [haddr]
    dsimp only
    rw [flashBytes_inside hle]
    rfl

/-! ### The moves of a run -/

/-- The premises of a whole run on the bus and the device: no transaction fails, and a device is fitted and idle. -/
structure BusReady (s : State) : Prop where
  reliable : s.cfg.spiFaultDraw = false
  fitted : s.dev.fitted ≠ none
  idle : s.dev.pending = none

theorem busReady_of_deviceReady {s : State} (hx : s.cfg.spiFaultDraw = false) (h : deviceReady s) : BusReady s :=
  ⟨hx, h.1, h.2⟩

theorem busReady_enter {s : State} (h : BusReady s) (l : Latch) (p : Phase) : BusReady (enter l p s) :=
  ⟨h.reliable, h.fitted, h.idle⟩

/-- A poll leaves the bus and the device ready. -/
theorem busReady_polled {s : State} (h : BusReady s) (l : Latch) (p : Phase) :
    BusReady (enter l p (sent .readStatus s)) :=
  ⟨h.reliable, h.fitted, h.idle⟩

section
variable {s : State} {l : Latch} {i : Instr}

/-- A pre-poll that sees the device ready starts the job (40_flash_controller.md R104). -/
theorem play_prePoll {tmo : Budget} {job : Job} (hs : s.seq = .run l (.prePoll tmo job)) (hd : decode l.opw = .ok i)
    (hb : BusReady s) (ms : List Move) :
    play (.sequencer :: ms) s = play ms (enter l (afterPrePoll tmo job) (sent .readStatus s)) :=
  play_sequencer hs hd (congrArg Host.Outcome.next (pollStep_ready _ hb.fitted hb.reliable hb.idle)) ms

/-- Decode, check and pre-poll of a command whose check passes (40_flash_controller.md R98, R101, R104). -/
theorem play_checked {tmo : Budget} {job : Job} (hs : s.seq = .run l .decode) (hd : decode l.opw = .ok i)
    (hfirst : firstOf s.cfg i l = .check) (hplan : planOf s.cfg i l = .prePoll tmo job) (hb : BusReady s)
    (ms : List Move) :
    play (seqMoves 3 ++ ms) s = play ms (enter l (afterPrePoll tmo job) (sent .readStatus s)) := by
  have hdecode : microStep i l .decode s = .next (enter l .check s) := by rw [← hfirst]; rfl
  have hcheck : microStep i l .check (enter l .check s) = .next (enter l (.prePoll tmo job) s) := by
    rw [← hplan]; rfl
  calc play (seqMoves 3 ++ ms) s
      = play (seqMoves 2 ++ ms) (enter l .check s) := play_sequencer hs hd hdecode _
    _ = play (seqMoves 1 ++ ms) (enter l (.prePoll tmo job) s) := play_sequencer (enter_seq ..) hd hcheck _
    _ = play ms (enter l (afterPrePoll tmo job) (sent .readStatus s)) :=
        play_prePoll (enter_seq ..) hd (busReady_enter hb _ _) ms

/-- Decode and pre-poll of a command without a check. -/
theorem play_unchecked {tmo : Budget} {job : Job} (hs : s.seq = .run l .decode) (hd : decode l.opw = .ok i)
    (hfirst : firstOf s.cfg i l = .prePoll tmo job) (hb : BusReady s) (ms : List Move) :
    play (seqMoves 2 ++ ms) s = play ms (enter l (afterPrePoll tmo job) (sent .readStatus s)) := by
  have hdecode : microStep i l .decode s = .next (enter l (.prePoll tmo job) s) := by rw [← hfirst]; rfl
  calc play (seqMoves 2 ++ ms) s
      = play (seqMoves 1 ++ ms) (enter l (.prePoll tmo job) s) := play_sequencer hs hd hdecode _
    _ = play ms (enter l (afterPrePoll tmo job) (sent .readStatus s)) :=
        play_prePoll (enter_seq ..) hd (busReady_enter hb _ _) ms

/-- `finish` with no race to settle (40_flash_controller.md R100). -/
theorem play_finish {c : Code} (hs : s.seq = .run l (.finish c)) (hd : decode l.opw = .ok i) (hraced : s.raced = []) :
    play (seqMoves 1) s = .next (finish c s) := by
  have hfinish : microStep i l (.finish c) s = .next (finish c s) := by
    rw [microStep, settleOf_unraced i c hraced]
  exact play_sequencer hs hd hfinish []

end

/-! ### The checks that pass (40_flash_controller.md R101) -/

theorem pastDbuf_eq_false {cfg : Config} {b n : Nat} (h : b + n ≤ cfg.dbufSize) : pastDbuf cfg b n = false :=
  decide_eq_false (Nat.not_lt.2 h)

theorem pastFlash_eq_false {a n : Nat} (h : a + n ≤ Config.flashSize) : pastFlash a n = false :=
  decide_eq_false (Nat.not_lt.2 h)

theorem outsideFlash_eq_false {a : Nat} (h : a < Config.flashSize) : outsideFlash a = false :=
  decide_eq_false (Nat.not_le.2 h)

theorem crossesPage_eq_false {a n : Nat} (h : a % Config.pageSize + n ≤ Config.pageSize) : crossesPage a n = false :=
  decide_eq_false (Nat.not_lt.2 h)

/-! ### A whole READ (40_flash_controller.md R108) -/

theorem planRead_eq {cfg : Config} {l : Latch} (hn : 0 < l.n.toNat) (hdbuf : l.b.toNat + l.n.toNat ≤ cfg.dbufSize)
    (hflash : l.a.toNat + l.n.toNat ≤ Config.flashSize) :
    planRead cfg l = .prePoll .pageProgram (.receive l.a.toNat l.n.toNat l.b.toNat) := by
  simp [planRead, dbufOffset, byteCount, flashAddr, pastDbuf_eq_false hdbuf, pastFlash_eq_false hflash, hn.ne']

/-- READ's transaction over a reliable bus. -/
theorem receiveStep_ready {l : Latch} {a n b : Nat} {s : State} (hcfg : configWellFormed s.cfg = true)
    (hle : a + n ≤ Config.flashSize) (hb : BusReady s) :
    receiveStep l a n b s = enter l (.deposit b ((List.range n).map fun i => flashRead s.dev.flash (a + i)) .ok)
      (sent (.read (BitVec.ofNat 32 a) n) s) := by
  rw [receiveStep_idle hcfg hle hb.fitted hb.idle, if_neg (by simp [hb.reliable])]

/-- READ's transaction, the store of its bytes and `finish`, over a reliable bus. -/
theorem play_receive {a n b : Nat} {l : Latch} {s : State} (hs : s.seq = .run l (.receive a n b))
    (hd : decode l.opw = .ok .read) (hcfg : configWellFormed s.cfg = true) (hle : a + n ≤ Config.flashSize)
    (hb : BusReady s) (hraced : s.raced = []) :
    play (seqMoves 3) s = .next (finish .ok { sent (.read (BitVec.ofNat 32 a) n) s with
      dbuf := dbufStore s.dbuf b ((List.range n).map fun i => flashRead s.dev.flash (a + i)) }) := by
  set bytes := (List.range n).map fun i => flashRead s.dev.flash (a + i)
  set received := enter l (.deposit b bytes .ok) (sent (.read (BitVec.ofNat 32 a) n) s)
  calc play (seqMoves 3) s
      = play (seqMoves 2) received :=
        play_sequencer hs hd (congrArg Host.Outcome.next (receiveStep_ready hcfg hle hb)) _
    _ = play (seqMoves 1) (depositStep l b bytes .ok received) := play_sequencer rfl hd rfl _
    _ = .next (finish .ok (depositStep l b bytes .ok received)) := play_finish rfl hd hraced
    _ = _ := rfl

/-! ### A whole `Mutate` (40_flash_controller.md R105) -/

/-- The frame of a `Mutate` whose bytes no host write has raced. -/
def mutationFrame (m : Memory) : MutOp → Frame
  | .program c => .pageProgram (BitVec.ofNat 32 c.addr) (dbufBytes m c.boff c.len)
  | .erase u base => eraseFrame u base

/-- The chunk that a `Mutate` issues. -/
def mutationChunk : MutOp → Option Chunk
  | .program c => some c
  | .erase _ _ => none

/-- The DBUF bytes that a `Mutate` consumes are defined. -/
def mutationDefined (m : Memory) : MutOp → Bool
  | .program c => dbufDefined m c.boff c.len
  | .erase _ _ => true

theorem frameStep_unraced {l : Latch} {tmo : Budget} {op : MutOp} {rest : List MutOp} {s : State} (hr : s.raced = [])
    (hdef : mutationDefined s.dbuf op = true) :
    frameStep l tmo op rest s =
      .next (sendMutation l tmo (mutationFrame s.dbuf op) (mutationChunk op) rest s) := by
  cases op with
  | erase u base => rfl
  | program c =>
    have hbytes : dbufDefined s.dbuf c.boff c.len = true := hdef
    rw [frameStep, if_pos hbytes, chunkData_of_raced_nil hr, hr]
    rfl

/-- What one `Mutate` leaves when the device completes operation `o` before the poll; `next` follows. -/
def mutated (l : Latch) (next : Phase) (f : Frame) (o : DevOp) (c : Option Chunk) (s : State) : State :=
  { s with
    dev := { s.dev with flash := (applyOp o (bump 2 s)).dev.flash, wel := false }
    draws := (applyOp o (bump 2 s)).draws + 1, issued := c
    spiLog := .readStatus :: f :: .writeEnable :: s.spiLog, seq := .run l next }

/-- The device completes the operation just accepted, and the poll sees it ready. -/
theorem play_completion {s : State} {l : Latch} {i : Instr} {tmo : Budget} {rest : List MutOp} {o : DevOp}
    (hs : s.seq = .run l (.postPoll tmo rest)) (hd : decode l.opw = .ok i) (hx : s.cfg.spiFaultDraw = false)
    (hfitted : s.dev.fitted ≠ none) (hu : devUnprotected s.dev = true) (hp : s.dev.pending = some o)
    (ms : List Move) :
    play (.device :: .sequencer :: ms) s =
      play ms (enter l (afterPostPoll tmo rest) (sent .readStatus (settleDevice (applyOp o s)))) := by
  have hframe := applyOp_frame o s
  have hseq : (settleDevice (applyOp o s)).seq = .run l (.postPoll tmo rest) := by rw [hframe]; exact hs
  have hpoll : pollStep l (afterPostPoll tmo rest) (settleDevice (applyOp o s)) =
      enter l (afterPostPoll tmo rest) (sent .readStatus (settleDevice (applyOp o s))) :=
    pollStep_ready _ (by rw [hframe]; exact hfitted) (by rw [hframe]; exact hx) rfl
  have hdevice : moveStep .device s = .next (settleDevice (applyOp o s)) :=
    congrArg Host.Outcome.next (deviceStep_unprotected hp hu)
  rw [play_next hdevice]
  exact play_sequencer hseq hd (congrArg Host.Outcome.next hpoll) ms

section
variable {s : State} {l : Latch} {i : Instr} {tmo : Budget} {op : MutOp} {o : DevOp}

/-- One `Mutate` over a reliable bus, the device completing before the poll. -/
theorem play_mutate {rest : List MutOp} (hs : s.seq = .run l (.writeEnable tmo op rest)) (hd : decode l.opw = .ok i)
    (hb : BusReady s) (hu : devUnprotected s.dev = true) (hraced : s.raced = [])
    (hdef : mutationDefined s.dbuf op = true) (hop : frameOp s.cfg (mutationFrame s.dbuf op) = some o)
    (ms : List Move) :
    play (seqMoves 2 ++ [.device] ++ seqMoves 1 ++ ms) s =
      play ms (mutated l (afterPostPoll tmo rest) (mutationFrame s.dbuf op) o (mutationChunk op) s) := by
  set enabled : State := { s with
    dev := { s.dev with wel := true }, draws := s.draws + 1
    spiLog := .writeEnable :: s.spiLog, seq := .run l (.frame tmo op rest) } with henabled
  set issued : State := { enabled with
    dev := { enabled.dev with pending := some o }, draws := enabled.draws + 1, issued := mutationChunk op
    spiLog := mutationFrame s.dbuf op :: enabled.spiLog, seq := .run l (.postPoll tmo rest) } with hissued
  have henable : microStep i l (.writeEnable tmo op rest) s = .next enabled :=
    congrArg Host.Outcome.next (writeEnableStep_ready hb.fitted hb.reliable hb.idle)
  have hsend : microStep i l (.frame tmo op rest) enabled = .next issued :=
    (frameStep_unraced (s := enabled) hraced hdef).trans
      (congrArg Host.Outcome.next (sendMutation_ready (s := enabled) hb.fitted hb.reliable hb.idle rfl hop))
  obtain ⟨hflash, hdraws⟩ := applyOp_congr o (s := issued) (t := bump 2 s) rfl rfl
  calc play (seqMoves 2 ++ [.device] ++ seqMoves 1 ++ ms) s
      = play (seqMoves 1 ++ [.device] ++ seqMoves 1 ++ ms) enabled := play_sequencer hs hd henable _
    _ = play ([.device] ++ seqMoves 1 ++ ms) issued := play_sequencer rfl hd hsend _
    _ = play ms (enter l (afterPostPoll tmo rest) (sent .readStatus (settleDevice (applyOp o issued)))) :=
        play_completion (s := issued) rfl hd hb.reliable hb.fitted hu rfl ms
    _ = _ := by
        rw [applyOp_frame, hflash, hdraws, mutated]
        simp only [settleDevice, sent, enter, hissued, henabled]
        rw [hb.idle]

/-- A command of one `Mutate`, from its first move to `finish`: `start` moves lead from the decode step past the
pre-poll. -/
theorem play_single_mutation {start : List Move}
    (hstart : ∀ ms, play (start ++ ms) s = play ms (enter l (.writeEnable tmo op []) (sent .readStatus s)))
    (hd : decode l.opw = .ok i) (hb : BusReady s) (hu : devUnprotected s.dev = true) (hraced : s.raced = [])
    (hdef : mutationDefined s.dbuf op = true) (hop : frameOp s.cfg (mutationFrame s.dbuf op) = some o) :
    play (start ++ (seqMoves 2 ++ [.device] ++ seqMoves 1 ++ seqMoves 1)) s = .next { s with
      status := { s.status with busy := false, done := true, err := .ok }
      seq := .idle, issued := none, draws := (applyOp o (bump 3 s)).draws + 1
      dev := { s.dev with flash := (applyOp o (bump 3 s)).dev.flash, wel := false }
      spiLog := [.readStatus, mutationFrame s.dbuf op, .writeEnable, .readStatus] ++ s.spiLog } := by
  set polled := enter l (.writeEnable tmo op []) (sent .readStatus s) with hpolled
  obtain ⟨hflash, hdraws⟩ := applyOp_congr o (s := bump 2 polled) (t := bump 3 s) rfl (by simp [hpolled, sent])
  calc play (start ++ (seqMoves 2 ++ [.device] ++ seqMoves 1 ++ seqMoves 1)) s
      = play (seqMoves 2 ++ [.device] ++ seqMoves 1 ++ seqMoves 1) polled := hstart _
    _ = play (seqMoves 1) (mutated l (.finish .ok) (mutationFrame s.dbuf op) o (mutationChunk op) polled) :=
        play_mutate (s := polled) rfl hd (busReady_polled hb _ _) hu hraced hdef hop _
    _ = .next (finish .ok (mutated l (.finish .ok) (mutationFrame s.dbuf op) o (mutationChunk op) polled)) :=
        play_finish rfl hd hraced
    _ = _ := by
        rw [mutated, hflash, hdraws]
        simp [finish, statusFinish, hpolled, enter, sent, hraced]

end

/-! ### A whole erase (40_flash_controller.md R112-R114) -/

theorem planEraseSector_eq {l : Latch} (h : l.a.toNat < Config.flashSize) :
    planEraseSector l = .prePoll .sectorErase (.mutate [.erase .sector (sectorBase l.a)]) := by
  simp [planEraseSector, flashAddr, outsideFlash_eq_false h]

theorem planEraseBlock_eq {cfg : Config} {l : Latch} (h : l.a.toNat < Config.flashSize) :
    planEraseBlock cfg l = .prePoll .blockErase (.mutate [.erase .block (blockBase cfg.blockSize l.a)]) := by
  simp [planEraseBlock, flashAddr, outsideFlash_eq_false h]

theorem blockSize_eq_two_pow {cfg : Config} (h : configWellFormed cfg = true) : ∃ k, cfg.blockSize.toNat = 2 ^ k := by
  simp only [configWellFormed, blockSizeOk, Bool.and_eq_true, List.any_eq_true, List.mem_range, beq_iff_eq] at h
  obtain ⟨⟨⟨k, -, hsize⟩, -⟩, -⟩ := h
  exact ⟨k, hsize⟩

/-- The erase of a unit, byte by byte. -/
theorem flashRead_erase_unit {cfg : Config} {u : EraseUnit} {a : Nat} (hsize : 0 < unitSize cfg u)
    (ha : a < Config.flashSize) (m : Memory) (x : Nat) :
    flashRead (memClear m (eraseRange cfg u (a / unitSize cfg u * unitSize cfg u)).1
        (eraseRange cfg u (a / unitSize cfg u * unitSize cfg u)).2) x =
      if x / unitSize cfg u = a / unitSize cfg u then Config.erasedByte else flashRead m x := by
  rw [flashRead_memClear, eraseRange_eq cfg u ((Nat.div_mul_le_self _ _).trans_lt ha), Nat.mul_div_cancel _ hsize]
  exact if_congr (unit_mem_iff hsize a x) rfl rfl

/-- A command that erases the unit that holds `a`, from its first move to `finish`. -/
theorem play_erase_unit {s : State} {l : Latch} {i : Instr} {tmo : Budget} {u : EraseUnit} {a base : Nat}
    {start : List Move}
    (hstart : ∀ ms, play (start ++ ms) s =
      play ms (enter l (.writeEnable tmo (.erase u base) []) (sent .readStatus s)))
    (hd : decode l.opw = .ok i) (hb : BusReady s) (hu : devUnprotected s.dev = true) (hraced : s.raced = [])
    (hop : frameOp s.cfg (eraseFrame u base) = some (.erase (eraseRange s.cfg u base).1 (eraseRange s.cfg u base).2))
    (hsize : 0 < unitSize s.cfg u) (ha : a < Config.flashSize)
    (hbase : base = a / unitSize s.cfg u * unitSize s.cfg u) :
    ∃ m, play (start ++ (seqMoves 2 ++ [.device] ++ seqMoves 1 ++ seqMoves 1)) s = .next { s with
        status := { s.status with busy := false, done := true, err := .ok }
        seq := .idle, issued := none, draws := s.draws + 4
        dev := { s.dev with flash := m, wel := false }
        spiLog := [.readStatus, eraseFrame u base, .writeEnable, .readStatus] ++ s.spiLog } ∧
      ∀ x, flashRead m x =
        if x / unitSize s.cfg u = a / unitSize s.cfg u then 0xFF#8 else flashRead s.dev.flash x := by
  subst hbase
  exact ⟨_, play_single_mutation hstart hd hb hu hraced rfl hop, flashRead_erase_unit hsize ha s.dev.flash⟩

/-! ### A whole PROG_PAGE (40_flash_controller.md R109) -/

theorem planProgPage_eq {cfg : Config} {l : Latch} (hn : 0 < l.n.toNat) (hdbuf : l.b.toNat + l.n.toNat ≤ cfg.dbufSize)
    (hflash : l.a.toNat + l.n.toNat ≤ Config.flashSize) (hpage : l.a.toNat % 256 + l.n.toNat ≤ 256) :
    planProgPage cfg l = .prePoll .pageProgram
      (.mutate [.program { addr := l.a.toNat, boff := l.b.toNat, len := l.n.toNat }]) := by
  simp [planProgPage, dbufOffset, byteCount, flashAddr, pastDbuf_eq_false hdbuf, pastFlash_eq_false hflash,
    crossesPage_eq_false hpage, hn.ne']

theorem dbufBytes_getD (m : Memory) (b : Nat) {n i : Nat} (hi : i < n) :
    (dbufBytes m b n).getD i 0 = dbufByte m (b + i) := by
  simp [dbufBytes, List.getElem?_range hi]

/-- The program frame of a chunk asks for the program of its bytes. -/
theorem frameOp_program {cfg : Config} (h : configWellFormed cfg = true) {c : Chunk} (hc : c.addr < Config.flashSize)
    (m : Memory) :
    frameOp cfg (mutationFrame m (.program c)) = some (.program c.addr (dbufBytes m c.boff c.len)) := by
  rw [mutationFrame, frameOp, arrayAddr_sentAddr_ofNat h hc]

/-! ### A whole WRITE (40_flash_controller.md R110, R111) -/

theorem planWrite_eq {cfg : Config} {l : Latch} (hn : 0 < l.n.toNat) (hdbuf : l.b.toNat + l.n.toNat ≤ cfg.dbufSize)
    (hflash : l.a.toNat + l.n.toNat ≤ Config.flashSize) :
    planWrite cfg l = .prePoll .pageProgram
      (.mutate ((chunks l.a.toNat l.b.toNat l.n.toNat).map .program)) := by
  simp [planWrite, dbufOffset, byteCount, flashAddr, pastDbuf_eq_false hdbuf, pastFlash_eq_false hflash, hn.ne']

/-- A list of `Mutate`s is entered in the same way from the pre-poll and from a poll after a frame. -/
theorem afterPrePoll_mutate (tmo : Budget) (ops : List MutOp) :
    afterPrePoll tmo (.mutate ops) = afterPostPoll tmo ops := by
  cases ops <;> rfl

/-- The moves of one chunk: the write enable, the program frame, the completion and the poll. -/
def chunkMoves : List Move := seqMoves 2 ++ [.device] ++ seqMoves 1

/-- The frames of one chunk, newest first. -/
def chunkFrames (m : Memory) (c : Chunk) : List Frame :=
  [.readStatus, .pageProgram (BitVec.ofNat 32 c.addr) (dbufBytes m c.boff c.len), .writeEnable]

theorem chunkFrames_eq (m : Memory) : chunkFrames m = fun c =>
    [.readStatus, .pageProgram (BitVec.ofNat 32 c.addr) (dbufBytes m c.boff c.len), .writeEnable] := rfl

/-- The premises of programming DBUF[b..b+n) to an erased Flash[a..a+n). -/
structure ReadyToProgram (a b n : Nat) (s : State) : Prop where
  cfg_ok : configWellFormed s.cfg = true
  bus : BusReady s
  unprotected : devUnprotected s.dev = true
  unraced : s.raced = []
  inside : a + n ≤ Config.flashSize
  defined : dbufDefined s.dbuf b n = true
  erased : ∀ j < n, flashRead s.dev.flash (a + j) = 0xFF#8

/-- State `t` is `s` with DBUF[b..b+n) programmed to Flash[a..a+n) by the chunks of R110, and nothing left to do but
`finish(OK)`. -/
structure Programmed (l : Latch) (a b n : Nat) (s t : State) : Prop where
  frame_eq : t = { s with
    seq := .run l (.finish .ok), draws := t.draws, issued := t.issued
    dev := { s.dev with flash := t.dev.flash, wel := t.dev.wel }
    spiLog := (chunks a b n).reverse.flatMap (chunkFrames s.dbuf) ++ s.spiLog }
  wel_clear : 0 < n ∨ s.dev.wel = false → t.dev.wel = false
  flash_eq : ∀ x, flashRead t.dev.flash x =
    if a ≤ x ∧ x < a + n then dbufByte s.dbuf (b + (x - a)) else flashRead s.dev.flash x

/-- What the `Mutate` of the chunk of `m` bytes leaves; `next` follows. -/
def chunkProgrammed (l : Latch) (next : Phase) (a b m : Nat) (s : State) : State :=
  mutated l next (.pageProgram (BitVec.ofNat 32 a) (dbufBytes s.dbuf b m)) (.program a (dbufBytes s.dbuf b m))
    (some { addr := a, boff := b, len := m }) s

section
variable {l : Latch} {a b n m : Nat} {s : State}

theorem ReadyToProgram.mono (h : ReadyToProgram a b n s) (hm : m ≤ n) : ReadyToProgram a b m s :=
  { h with
    inside := (Nat.add_le_add_left hm a).trans h.inside
    defined := (dbufDefined_iff _ _ _).2 fun j hj => (dbufDefined_iff _ _ _).1 h.defined j (hj.trans_le hm)
    erased := fun j hj => h.erased j (hj.trans_le hm) }

/-- A chunk over erased bytes, inside its page, byte by byte (20_memory.md R68). -/
theorem flashRead_chunkProgrammed (h : ReadyToProgram a b m s) (hpage : a % Config.pageSize + m ≤ Config.pageSize)
    (next : Phase) (x : Nat) :
    flashRead (chunkProgrammed l next a b m s).dev.flash x =
      if a ≤ x ∧ x < a + m then dbufByte s.dbuf (b + (x - a)) else flashRead s.dev.flash x := by
  have hok : opOk (.program a (dbufBytes s.dbuf b m)) := by
    simpa only [opOk, dbufBytes_length] using And.intro hpage h.inside
  have herased : programErased (bump 2 s).dev.flash a (dbufBytes s.dbuf b m) = true := by
    rw [programErased_iff hok, dbufBytes_length]
    exact h.erased
  refine (flashRead_applyOp_program hok herased x).trans ?_
  rw [dbufBytes_length]
  split
  · exact dbufBytes_getD _ _ (by omega)
  · rfl

/-- The moves of one chunk. -/
theorem play_chunk {i : Instr} {tmo : Budget} {rest : List MutOp} (h : ReadyToProgram a b m s)
    (hs : s.seq = .run l (.writeEnable tmo (.program { addr := a, boff := b, len := m }) rest))
    (hd : decode l.opw = .ok i) (hm : 0 < m) (ms : List Move) :
    play (chunkMoves ++ ms) s = play ms (chunkProgrammed l (afterPostPoll tmo rest) a b m s) :=
  play_mutate hs hd h.bus h.unprotected h.unraced h.defined
    (frameOp_program h.cfg_ok (show a < Config.flashSize from (Nat.lt_add_of_pos_right hm).trans_le h.inside) s.dbuf) ms

/-- Past its first chunk the range is still ready: defined, and erased. -/
theorem ReadyToProgram.rest (h : ReadyToProgram a b n s) (hm : m ≤ n)
    (hpage : a % Config.pageSize + m ≤ Config.pageSize) (next : Phase) :
    ReadyToProgram (a + m) (b + m) (n - m) (chunkProgrammed l next a b m s) where
  cfg_ok := h.cfg_ok
  bus := ⟨h.bus.reliable, h.bus.fitted, h.bus.idle⟩
  unprotected := h.unprotected
  unraced := h.unraced
  inside := by have := h.inside; omega
  defined := (dbufDefined_iff _ _ _).2 fun j hj => by
    rw [Nat.add_assoc]
    exact (dbufDefined_iff _ _ _).1 h.defined _ (by omega)
  erased := fun j hj => by
    rw [flashRead_chunkProgrammed (h.mono hm) hpage, if_neg (by omega), Nat.add_assoc]
    exact h.erased _ (by omega)

/-- The empty range is programmed. -/
theorem programmed_zero (hs : s.seq = .run l (.finish .ok)) : Programmed l a b 0 s s where
  frame_eq := by
    obtain ⟨⟩ := s
    cases hs
    rfl
  wel_clear := fun hw => hw.resolve_left (Nat.lt_irrefl 0)
  flash_eq := fun x => (if_neg (by omega)).symm

/-- A first chunk and the rest of the range make the range. -/
theorem Programmed.cons {t : State} {next : Phase} (h : ReadyToProgram a b m s) (hm : m ≤ n)
    (hpage : a % Config.pageSize + m ≤ Config.pageSize)
    (hchunks : chunks a b n = { addr := a, boff := b, len := m } :: chunks (a + m) (b + m) (n - m))
    (ht : Programmed l (a + m) (b + m) (n - m) (chunkProgrammed l next a b m s) t) : Programmed l a b n s t where
  frame_eq := by
    refine ht.frame_eq.trans ?_
    rw [hchunks]
    simp [chunkProgrammed, mutated, chunkFrames]
  wel_clear := fun _ => ht.wel_clear (.inr rfl)
  flash_eq := fun x => by
    rw [ht.flash_eq, flashRead_chunkProgrammed h hpage]
    by_cases hx : a + m ≤ x ∧ x < a + m + (n - m)
    · rw [if_pos hx, if_pos (by omega), show b + m + (x - (a + m)) = b + (x - a) by omega]
      rfl
    · rw [if_neg hx]
      exact if_congr (by omega) rfl rfl

end

/-- The chunks of a range over erased bytes are programmed one after the other. -/
theorem play_chunks {l : Latch} {i : Instr} (hd : decode l.opw = .ok i) (tmo : Budget) (n : Nat) :
    ∀ {a b : Nat} {s : State}, ReadyToProgram a b n s →
      s.seq = .run l (afterPostPoll tmo ((chunks a b n).map .program)) →
      ∃ t, (∀ ms, play ((chunks a b n).flatMap (fun _ => chunkMoves) ++ ms) s = play ms t) ∧
        Programmed l a b n s t := by
  induction n using Nat.strong_induction_on with
  | _ n ih =>
    intro a b s h hs
    obtain rfl | hn := Nat.eq_zero_or_pos n
    · exact ⟨s, fun ms => rfl, programmed_zero hs⟩
    · have hmod := Nat.mod_lt a (show 0 < Config.pageSize by decide)
      obtain ⟨m, hm⟩ : ∃ m, m = min n (Config.pageSize - a % Config.pageSize) := ⟨_, rfl⟩
      have hchunks := chunks_cons (a := a) (b := b) hn
      rw [← hm] at hchunks
      rw [hchunks] at hs
      have hle : m ≤ n := by omega
      have hpage : a % Config.pageSize + m ≤ Config.pageSize := by omega
      obtain ⟨t, hplay, ht⟩ := ih (n - m) (by omega) (h.rest hle hpage _) rfl
      refine ⟨t, fun ms => ?_, ht.cons (h.mono hle) hle hpage hchunks⟩
      rw [hchunks, List.flatMap_cons, List.append_assoc, play_chunk (h.mono hle) hs hd (by omega), hplay]

end Sys2Proof.Machine

namespace Sys2Proof.Proofs

open Sys2Proof.Machine Sys2Proof.Safety

/-- Settles O3, frame by frame: `parseFrame_addressed` reads the frames that carry an address. -/
theorem frameBytesDetermineTheFrame : Obligations.FrameBytesDetermineTheFrame := by
  intro cfg f h ha
  cases f with
  | readStatus => rfl
  | writeEnable => rfl
  | chipErase => rfl
  | jedecId => rfl
  | pageProgram a data => exact parseFrame_addressed h ha 0x02#8 data 0
  | read a n => simpa [frameBytes, frameIn, frameAddr] using parseFrame_addressed h ha 0x03#8 [] n
  | sectorErase a => simpa [frameBytes, frameIn, frameAddr] using parseFrame_addressed h ha 0x20#8 [] 0
  | blockErase a => simpa [frameBytes, frameIn, frameAddr] using parseFrame_addressed h ha 0xD8#8 [] 0

/-- Settles O15: either access raises BusError exactly where it reaches no region. -/
theorem busErrorExactlyOnRefusedAccesses : Obligations.BusErrorExactlyOnRefusedAccesses := by
  intro s off w v h
  have hrefused := regionAt_eq_refused_iff h off w
  exact ⟨hostStep_write_busError_iff.trans hrefused, hostStep_read_busError_iff.trans hrefused⟩

/-- Settles O16: the write is a store of the value's bytes, and each read inside it takes a part of them. -/
theorem dbufIsLittleEndian : Obligations.DbufIsLittleEndian := by
  intro s i w v h haligned hle hrange
  have hpos : 0 < widthBytes w := by cases w <;> decide
  refine ⟨{ s with dbuf := dbufStore s.dbuf i (valueBytes v w) }, ?write, rfl, ?outside, ?inside, ?reads⟩
  case write =>
    rw [hostStep_write_dbuf h v (by omega) haligned, hostStore_of_not_inBusyRange]
    simpa using hrange
  case outside =>
    intro x hx
    exact (memGet_dbufStore _ _ _ _).trans (dif_neg (by rw [valueBytes_length]; omega))
  case inside => exact fun k hk => memGet_dbufStore_valueBytes s.dbuf i v hk
  case reads =>
    intro u k hu hk
    have hupos : 0 < widthBytes u := by cases u <;> decide
    have hread := hostStep_read_of_dbuf (s := { s with dbuf := dbufStore s.dbuf i (valueBytes v w) })
      (regionAt_dbuf h (by omega) hu)
      (fun j hj => inReadDestination_of_not_inBusyRange (Nat.add_assoc i k j ▸ hrange (k + j) (by omega)))
      (fun j hj => by simp [Nat.add_assoc, memGet_dbufStore_valueBytes s.dbuf i v (show k + j < widthBytes w by omega)])
    rw [leWord_dbufBytes_valueBytes s.dbuf i v hk] at hread
    rw [Nat.add_assoc]
    exact hread

/-- Settles O18: a register read logs its value; a DBUF read logs its bytes, and draws only for a running READ. -/
theorem readsHaveNoSideEffect : Obligations.ReadsHaveNoSideEffect := by
  intro s t off w h
  refine ⟨?_, hostStep_read_repeats h⟩
  rcases hostStep_read_cases h with ⟨r, -, rfl⟩ | ⟨i, -, -, rfl⟩
  · exact ⟨_, 0, rfl⟩
  · exact ⟨_, _, rfl⟩

/-- Settles O36, from the device's answer to each kind of frame. -/
theorem deviceTakesFrames : Obligations.DeviceTakesFrames := by
  intro s id hcfg hid
  have hfitted : s.dev.fitted ≠ none := by simp [hid]
  refine ⟨?read, ?mutation, ?writeEnable⟩
  case read =>
    intro a n hle hp
    have haddr : sentAddr s.cfg a = a.toNat := by
      simpa using sentAddr_ofNat hcfg (a := a.toNat) (by simp only [Config.flashSize]; omega)
    rw [deviceTakes_read hfitted hp, haddr, flashBytes_inside hle]
  case mutation =>
    intro f op hf
    rw [deviceTakes_mutation hfitted hf]
    split
    · next hready => exact acceptOp_ready hready.1 hready.2
    · next hready => exact acceptOp_not_ready hready
  case writeEnable =>
    split
    · next hp => rw [deviceTakes_writeEnable hfitted hp]
    · next hp => simp [deviceTakes, hid, devBusy, Option.isSome_iff_ne_none.2 hp]

/-- Settles O37: the completion step applies the operation, or nothing on a protected device, and settles the
device. -/
theorem completionStepEffects : Obligations.CompletionStepEffects := by
  intro s op hp hok
  refine ⟨deviceStep s, rfl, ?frame, ?noEffect, ?effect⟩
  case frame =>
    by_cases h : devUnprotected s.dev = true ∨ Config.freeBool s.draws = false
    · rw [deviceStep_effect hp h, applyOp_frame]
      rfl
    · obtain ⟨hu, hdraw⟩ := not_or.1 h
      rw [deviceStep_no_effect hp (by simpa using hu) (by simpa using hdraw)]
      rfl
  case noEffect =>
    intro hu hdraw
    rw [deviceStep_no_effect hp hu hdraw]
    rfl
  case effect =>
    intro h
    rw [deviceStep_effect hp h]
    refine ⟨fun x hx => flashRead_applyOp_outside hok _ hx, fun x hlo hhi => ?_⟩
    refine (flashRead_applyOp_inside hok _ hlo hhi).trans ?_
    cases op <;> rfl

/-- Settles O40: the write-enable transaction of any `Mutate`, then the frame of the unit's erase. -/
theorem eraseFrameIsAccepted : Obligations.EraseFrameIsAccepted := by
  intro s l tmo base rest p hp hcfg hready hbase
  obtain ⟨hfitted, hidle⟩ := hready
  refine ⟨fun hs => ?writeEnable, fun hs hwel => ⟨(eraseRange s.cfg p.2 base).1, (eraseRange s.cfg p.2 base).2,
    eraseFrame p.2 base, ?range, ?frame⟩⟩
  case writeEnable =>
    rw [exec_run p.1 hs]
    exact congrArg Host.Outcome.next (writeEnableStep_idle hfitted hidle)
  case frame =>
    rw [exec_run p.1 hs]
    exact congrArg Host.Outcome.next (sendMutation_idle hfitted hidle hwel (frameOp_eraseFrame hcfg p.2 hbase))
  case range =>
    have hrange := eraseRange_eq s.cfg p.2 hbase
    obtain ⟨i, u⟩ := p
    cases u with
    | sector => rw [hrange]; rfl
    | block => rw [hrange]; rfl
    | chip => rfl

/-- Settles O41: the transaction's two outcomes, and the store of its bytes. -/
theorem readTransfersAndDeposits : Obligations.ReadTransfersAndDeposits := by
  intro s l a n b hcfg hle hready
  refine ⟨fun hs => ?receive, fun bytes code hs =>
    ⟨dbufStore s.dbuf b bytes, exec_run .read hs, ?outside, ?inside⟩⟩
  case receive =>
    rw [exec_run .read hs]
    show ∃ d, Host.Outcome.next (receiveStep l a n b s) = _
    rw [receiveStep_idle hcfg hle hready.1 hready.2]
    by_cases hx : transactionFails s
    · refine ⟨1 + n, ?_⟩
      simp only [if_pos hx, ← Nat.add_assoc]
      rfl
    · refine ⟨1, ?_⟩
      simp only [if_neg hx]
      rfl
  case outside => exact fun x hx => (memGet_dbufStore _ _ _ _).trans (dif_neg (by omega))
  case inside =>
    intro i hi
    rw [memGet_dbufStore, dif_pos (by omega)]
    simp

/-- Settles O42: decode, check and pre-poll, then the transaction, the store of its bytes, and `finish`. -/
theorem readCopiesFlashToDbuf : Obligations.ReadCopiesFlashToDbuf := by
  intro s l hs hd hraced hcfg hx hready hn hdbuf hflash
  have hb := busReady_of_deviceReady hx hready
  set bytes := (List.range l.n.toNat).map fun i => flashRead s.dev.flash (l.a.toNat + i) with hbytes
  have hlen : bytes.length = l.n.toNat := by simp [hbytes]
  refine ⟨dbufStore s.dbuf l.b.toNat bytes, ?run, ?inside, ?outside⟩
  case run =>
    set polled := enter l (.receive l.a.toNat l.n.toNat l.b.toNat) (sent .readStatus s) with hpolled
    calc play (seqMoves 6) s
        = play (seqMoves 3) polled := play_checked hs hd rfl (planRead_eq hn hdbuf hflash) hb _
      _ = _ := play_receive (s := polled) rfl hd hcfg hflash (busReady_polled hb _ _) hraced
      _ = _ := by simp [hpolled, finish, statusFinish, enter, sent, hraced, hbytes]
  case inside =>
    intro j hj
    rw [memGet_dbufStore, dif_pos (by omega)]
    simp [hbytes]
  case outside => exact fun x hx => (memGet_dbufStore _ _ _ _).trans (dif_neg (by omega))

/-- Settles O43: one `Mutate` of one chunk, whose completion step sees the array as the frame did. -/
theorem progPageProgramsItsRange : Obligations.ProgPageProgramsItsRange := by
  intro s l hs hd hraced hcfg hx hready hu hn hdbuf hflash hpage hdef
  have hb := busReady_of_deviceReady hx hready
  set c : Chunk := { addr := l.a.toNat, boff := l.b.toNat, len := l.n.toNat } with hc
  have hok : opOk (.program l.a.toNat (dbufBytes s.dbuf l.b.toNat l.n.toNat)) := by
    simpa only [opOk, dbufBytes_length] using And.intro hpage hflash
  have hplay := play_single_mutation
    (play_checked hs hd rfl (planProgPage_eq hn hdbuf hflash hpage) hb) hd hb hu hraced (op := .program c) hdef
    (frameOp_program hcfg (show l.a.toNat < Config.flashSize by simp only [Config.flashSize]; omega) s.dbuf)
  refine ⟨_, hplay, ?frame, ?outside, ?inside⟩
  case frame => simp [mutationFrame, hc]
  case outside =>
    intro x hx
    exact flashRead_applyOp_outside hok (bump 3 s) (by simpa [opRange] using hx)
  case inside =>
    intro j hj
    refine (flashRead_applyOp_inside hok (bump 3 s) (x := l.a.toNat + j) (Nat.le_add_right _ _)
      (by simpa [opRange] using hj)).trans ?_
    rw [completedByte, dbufBytes_length, Nat.add_sub_cancel_left, dbufBytes_getD _ _ hj]
    rfl

/-- Settles O44: the chunks of the range, one after the other, then `finish`. -/
theorem writeProgramsItsRange : Obligations.WriteProgramsItsRange := by
  intro s l hs hd hraced hcfg hx hready hu hn hdbuf hflash hdef herased
  have hb := busReady_of_deviceReady hx hready
  set cs := chunks l.a.toNat l.b.toNat l.n.toNat with hcs
  set polled := enter l (afterPostPoll .pageProgram (cs.map .program)) (sent .readStatus s) with hpolled
  have hprogram : ReadyToProgram l.a.toNat l.b.toNat l.n.toNat polled :=
    { cfg_ok := hcfg, bus := busReady_polled hb _ _, unprotected := hu, unraced := hraced
      inside := hflash, defined := hdef, erased := herased }
  obtain ⟨t, hplay, ht⟩ := play_chunks hd .pageProgram l.n.toNat hprogram rfl
  have hframe := ht.frame_eq
  have hstart : play (seqMoves 3 ++ (cs.flatMap (fun _ => chunkMoves) ++ seqMoves 1)) s =
      play (cs.flatMap (fun _ => chunkMoves) ++ seqMoves 1) polled := by
    rw [play_checked hs hd rfl (planWrite_eq hn hdbuf hflash) hb, afterPrePoll_mutate]
  have hfinish : play (seqMoves 1) t = .next (finish .ok t) :=
    play_finish (l := l) (by rw [hframe]) hd (by rw [hframe]; exact hraced)
  refine ⟨finish .ok t, ?run, ?frame, ?outside, ?inside⟩
  case run =>
    rw [List.append_assoc]
    exact hstart.trans ((hplay _).trans hfinish)
  case frame =>
    have hwel : t.dev.wel = false := ht.wel_clear (.inl hn)
    rw [hwel] at hframe
    refine (congrArg (finish .ok) hframe).trans ?_
    simp [hpolled, finish, statusFinish, enter, sent, hraced, hcs, chunkFrames_eq]
  case outside => exact fun x hx => (ht.flash_eq x).trans (if_neg (by omega))
  case inside =>
    intro j hj
    refine (ht.flash_eq _).trans ((if_pos (by omega)).trans ?_)
    rw [Nat.add_sub_cancel_left]
    rfl

/-- Settles O45: the erase of the unit of 4096 bytes that holds the address. -/
theorem eraseSectorErasesItsSector : Obligations.EraseSectorErasesItsSector := by
  intro s l hs hd hraced hcfg hx hready hu ha
  have hb := busReady_of_deviceReady hx hready
  rw [← sectorBase_eq]
  exact play_erase_unit (u := .sector) (play_checked hs hd rfl (planEraseSector_eq ha) hb) hd hb hu hraced
    (frameOp_eraseFrame hcfg .sector (by rw [sectorBase_eq]; exact (Nat.div_mul_le_self _ _).trans_lt ha))
    (Nat.zero_lt_succ _) ha (sectorBase_eq l.a)

/-- Settles O46: the erase of the unit of BLOCK_SIZE bytes that holds the address. -/
theorem eraseBlockErasesItsBlock : Obligations.EraseBlockErasesItsBlock := by
  intro s l hs hd hraced hcfg hx hready hu ha
  have hb := busReady_of_deviceReady hx hready
  obtain ⟨k, hk⟩ := blockSize_eq_two_pow hcfg
  have hbase := blockBase_eq hk l.a
  rw [← hbase]
  exact play_erase_unit (u := .block) (play_checked hs hd rfl (planEraseBlock_eq ha) hb) hd hb hu hraced
    (frameOp_eraseFrame hcfg .block (by rw [hbase]; exact (Nat.div_mul_le_self _ _).trans_lt ha))
    (by rw [unitSize, hk]; exact Nat.two_pow_pos k) ha hbase

/-- Settles O47: the erase of the unit that is the whole array. -/
theorem eraseChipErasesTheArray : Obligations.EraseChipErasesTheArray := by
  intro s l hs hd hraced hx hready hu
  have hb := busReady_of_deviceReady hx hready
  obtain ⟨m, hplay, hm⟩ := play_erase_unit (u := .chip) (base := 0) (a := 0)
    (play_unchecked hs hd rfl hb) hd hb hu hraced rfl (Nat.zero_lt_succ _) (Nat.zero_lt_succ _) (by simp)
  exact ⟨m, hplay, fun x hlt => (hm x).trans (if_pos ((Nat.div_eq_of_lt hlt).trans (Nat.zero_div _).symm))⟩

end Sys2Proof.Proofs
end

section
/-! PROOFS. The statements on the encoding: the decoder answers exactly the opcode map, an illegal word finishes
ERR_OPCODE, and no step refuses. -/

namespace Sys2Proof

/-! ### The fields of a CMD word (30_encoding.md R87) -/

/-- RSVD and OPCODE are the whole word. -/
theorem rsvdField_append_opcodeField (w : Word) : rsvdField w ++ opcodeField w = w := by
  apply BitVec.eq_of_getLsbD_eq
  intro k hk
  rw [BitVec.getLsbD_append, rsvdField, opcodeField, BitVec.getLsbD_extractLsb', BitVec.getLsbD_extractLsb']
  by_cases hlow : k < 8
  · simp [hlow]
  · have hhigh : k - 8 < 24 := by omega
    simp [hlow, hhigh, show 8 + (k - 8) = k by omega]

@[simp] theorem rsvdField_encode (i : Instr) : rsvdField (encode i) = 0#24 := by cases i <;> rfl

@[simp] theorem opcodeField_encode (i : Instr) : opcodeField (encode i) = opcode i := by cases i <;> rfl

/-- A word is a command's exactly when its two fields are. -/
theorem eq_encode_iff {w : Word} {i : Instr} :
    w = encode i ↔ rsvdField w = 0#24 ∧ opcodeField w = opcode i := by
  constructor
  · rintro rfl
    exact ⟨rsvdField_encode i, opcodeField_encode i⟩
  · rintro ⟨hrsvd, hop⟩
    rw [← rsvdField_append_opcodeField w, hrsvd, hop, encode]

/-! ### The opcode map (30_encoding.md R88) -/

@[simp] theorem decodeOpcode_opcode (i : Instr) : decodeOpcode (opcode i) = some i := by cases i <;> rfl

/-- The decoder's map assigns no opcode but the twelve of the encoder's. -/
theorem decodeOpcode_eq_none {op : Byte} (h : ∀ i, op ≠ opcode i) : decodeOpcode op = none :=
  calc decodeOpcode op
      = _ := if_neg (h .nop)
    _ = _ := if_neg (h .read)
    _ = _ := if_neg (h .progPage)
    _ = _ := if_neg (h .write)
    _ = _ := if_neg (h .eraseSector)
    _ = _ := if_neg (h .eraseBlock)
    _ = _ := if_neg (h .eraseChip)
    _ = _ := if_neg (h .readId)
    _ = _ := if_neg (h .crcInit)
    _ = _ := if_neg (h .crcBuf)
    _ = _ := if_neg (h .validateRecord)
    _ = none := if_neg (h .validateHeader)

/-- The decoder's map and the encoder's are the same map. -/
theorem decodeOpcode_eq_some_iff {op : Byte} {i : Instr} : decodeOpcode op = some i ↔ op = opcode i := by
  constructor
  · intro h
    by_cases hassigned : ∃ j, op = opcode j
    · obtain ⟨j, rfl⟩ := hassigned
      rw [decodeOpcode_opcode, Option.some.injEq] at h
      rw [h]
    · rw [decodeOpcode_eq_none (not_exists.1 hassigned)] at h
      cases h
  · rintro rfl
    exact decodeOpcode_opcode i

/-- No command has an opcode of the reserved ranges 0x08-0x0F and 0x14-0xFF. -/
theorem opcode_assigned (i : Instr) : (opcode i).toNat < 8 ∨ (16 ≤ (opcode i).toNat ∧ (opcode i).toNat < 20) := by
  cases i <;> decide

/-! ### The decoder (30_encoding.md R89, R92) -/

theorem decode_eq_ok_iff_fields {w : Word} {i : Instr} :
    decode w = .ok i ↔ rsvdField w = 0#24 ∧ opcodeField w = opcode i := by
  rw [← decodeOpcode_eq_some_iff]
  unfold decode
  by_cases hrsvd : rsvdField w = 0#24
  · rw [if_pos hrsvd]
    cases decodeOpcode (opcodeField w) <;> simp [hrsvd]
  · simp [hrsvd]

theorem decode_eq_ok_iff {w : Word} {i : Instr} : decode w = .ok i ↔ w = encode i :=
  decode_eq_ok_iff_fields.trans eq_encode_iff.symm

/-- A bit of RSVD is 1, or the opcode is of a reserved range (30_encoding.md R92). -/
def ReservedWord (w : Word) : Prop :=
  rsvdField w ≠ 0#24 ∨ (8 ≤ (opcodeField w).toNat ∧ (opcodeField w).toNat ≤ 15) ∨ 20 ≤ (opcodeField w).toNat

/-- A reserved word selects no command. -/
theorem decode_illegal {w : Word} (h : ReservedWord w) : ∃ e, decode w = .error e := by
  cases hd : decode w with
  | error e => exact ⟨e, rfl⟩
  | ok i =>
    obtain ⟨hrsvd, hop⟩ := decode_eq_ok_iff_fields.1 hd
    rcases h with hbit | hrange
    · exact absurd hrsvd hbit
    · have hassigned := opcode_assigned i
      rw [hop] at hrange
      omega

/-- A 32-bit word of the opcode table is decoded as the CMD word it is (30_encoding.md R93). -/
theorem decodeTableWord_toNat (w : Word) : decodeTableWord 32 w.toNat = (decode w).toOption := by
  unfold decodeTableWord
  rw [Nat.mod_eq_of_lt w.isLt, if_pos w.isLt, BitVec.ofNat_toNat, BitVec.setWidth_eq]
  cases decode w <;> rfl

theorem decodeTableWord_encode (i : Instr) : decodeTableWord 32 (encode i).toNat = some i := by
  rw [decodeTableWord_toNat, decode_eq_ok_iff.2 rfl]
  rfl

/-- A reserved word of the opcode table is no command. -/
theorem decodeTableWord_illegal {w : Word} (h : ReservedWord w) : decodeTableWord 32 w.toNat = none := by
  obtain ⟨e, he⟩ := decode_illegal h
  rw [decodeTableWord_toNat, he]
  rfl

end Sys2Proof

namespace Sys2Proof.Machine

open Sys2Proof.Safety

/-! ### The run of an illegal word (40_flash_controller.md R98) -/

/-- The sequencer's move on an illegal word. -/
theorem moveStep_sequencer_illegal {s : State} {l : Latch} {p : Phase} {e : Illegal} (hs : s.seq = .run l p)
    (hd : decode l.opw = .error e) : moveStep .sequencer s = runIllegal s := by
  show sequencerStep s = _
  unfold sequencerStep
  rw [hs]
  dsimp only
  rw [hd]

/-- The decode step of an illegal word goes to `finish(ERR_OPCODE)`. -/
theorem runIllegal_decode {s : State} {l : Latch} (hs : s.seq = .run l .decode) :
    runIllegal s = .next (enter l (.finish .errOpcode) s) := by
  rw [runIllegal_run hs, if_pos (.inl rfl)]

/-- An illegal word has no DBUF range, so its `finish` settles no race. -/
theorem runIllegal_finish {s : State} {l : Latch} {c : Code} (hs : s.seq = .run l (.finish c)) :
    runIllegal s = .next (finish c s) := by
  rw [runIllegal_run hs, if_neg (by simp)]
  rfl

/-- The whole run of an illegal word: its decode step and `finish(ERR_OPCODE)`. -/
theorem play_illegal {s : State} {l : Latch} {e : Illegal} (hs : s.seq = .run l .decode)
    (hd : decode l.opw = .error e) :
    play (seqMoves 2) s = .next (finish .errOpcode (enter l (.finish .errOpcode) s)) := by
  have hfinish : (enter l (.finish .errOpcode) s).seq = .run l (.finish .errOpcode) := enter_seq ..
  calc play (seqMoves 2) s
      = play (seqMoves 1) (enter l (.finish .errOpcode) s) :=
        play_next ((moveStep_sequencer_illegal hs hd).trans (runIllegal_decode hs)) _
    _ = .next (finish .errOpcode (enter l (.finish .errOpcode) s)) :=
        play_next ((moveStep_sequencer_illegal hfinish hd).trans (runIllegal_finish hfinish)) []

/-! ### No agent refuses (log 27) -/

theorem frameStep_ne_refused (l : Latch) (tmo : Budget) (op : MutOp) (rest : List MutOp) (s : State) (r : Refusal) :
    frameStep l tmo op rest s ≠ .refused r := by
  cases op with
  | program c => unfold frameStep; dsimp only; split <;> exact nofun
  | erase u base => exact nofun

theorem feedStep_ne_refused (l : Latch) (k : Nat) (s : State) (r : Refusal) : feedStep l k s ≠ .refused r := by
  unfold feedStep
  split
  · cases memGet s.dbuf (dbufOffset l + k) <;> exact nofun
  · exact nofun

theorem judgeStep_ne_refused (l : Latch) (img : Image) (s : State) (r : Refusal) : judgeStep l img s ≠ .refused r := by
  unfold judgeStep
  split <;> exact nofun

/-- Only the micro-steps that consume DBUF bytes have an outcome other than a next state. -/
theorem microStep_ne_refused (i : Instr) (l : Latch) (p : Phase) (s : State) (r : Refusal) :
    microStep i l p s ≠ .refused r := by
  cases p with
  | frame tmo op rest => exact frameStep_ne_refused l tmo op rest s r
  | feed k => exact feedStep_ne_refused l k s r
  | judge img => exact judgeStep_ne_refused l img s r
  | _ => exact nofun

theorem runIllegal_ne_refused {s : State} {l : Latch} {p : Phase} (hs : s.seq = .run l p) (r : Refusal) :
    runIllegal s ≠ .refused r := by
  rw [runIllegal_run hs]
  split
  · exact nofun
  · exact microStep_ne_refused .nop l p s r

theorem sequencerStep_ne_refused (s : State) (r : Refusal) : moveStep .sequencer s ≠ .refused r := by
  cases hs : s.seq with
  | idle =>
    rw [moveStep_sequencer_idle hs]
    exact nofun
  | run l p =>
    cases hd : decode l.opw with
    | ok i =>
      rw [moveStep_sequencer hs hd]
      exact microStep_ne_refused i l p s r
    | error e =>
      rw [moveStep_sequencer_illegal hs hd]
      exact runIllegal_ne_refused hs r

/-- What the bus does not accept is a BusError, a fault of the host and no refusal (60_exceptions.md R141). -/
theorem hostStep_ne_refused (acc : Access) (s : State) (r : Refusal) : hostStep acc s ≠ .refused r := by
  cases acc with
  | read off w =>
    show hostRead off w s ≠ _
    unfold hostRead
    split
    · exact nofun
    · split <;> exact nofun
    · exact nofun
  | write off w v =>
    show hostWrite off w v s ≠ _
    unfold hostWrite
    split <;> exact nofun

theorem moveStep_ne_refused (m : Move) (s : State) (r : Refusal) : moveStep m s ≠ .refused r := by
  cases m with
  | host acc => exact hostStep_ne_refused acc s r
  | sequencer => exact sequencerStep_ne_refused s r
  | device => exact nofun
  | reset => exact nofun

end Sys2Proof.Machine

namespace Sys2Proof.Proofs

open Sys2Proof.Machine

/-- Settles O1: a word is its two fields, and the decoder's map of opcodes is the encoder's. -/
theorem decodeAnswersExactlyTheOpcodeMap : Obligations.DecodeAnswersExactlyTheOpcodeMap := by
  intro w i
  refine ⟨decode_eq_ok_iff, ?_⟩
  cases i <;> rfl

/-- Settles O6: the word decodes to Illegal, and its run is the decode step and `finish(ERR_OPCODE)`. -/
theorem illegalWordFinishesErrOpcode : Obligations.IllegalWordFinishesErrOpcode := by
  intro s l hs hreserved
  obtain ⟨e, hd⟩ := decode_illegal hreserved
  exact play_illegal hs hd

/-- Settles O8: a step is a move of one agent, and no agent's move refuses. -/
theorem noStepRefuses : Obligations.NoStepRefuses := by
  intro s r
  cases hagenda : s.agenda with
  | nil =>
    rw [step_of_agenda_nil hagenda]
    exact moveStep_ne_refused _ _ r
  | cons m rest =>
    rw [step_of_agenda_cons hagenda]
    exact moveStep_ne_refused m _ r

/-- Settles O2: five words of the map, an opcode of a reserved range, and a word with a reserved bit. -/
theorem decodeReadsWrittenOutWords : Obligations.DecodeReadsWrittenOutWords :=
  ⟨decodeTableWord_encode .nop, decodeTableWord_encode .read, decodeTableWord_encode .eraseChip,
    decodeTableWord_encode .crcBuf, decodeTableWord_encode .validateHeader,
    decodeTableWord_illegal (w := 0x00000008#32) (.inr (.inl (by decide))),
    decodeTableWord_illegal (w := 0x00000101#32) (.inl (by decide))⟩

end Sys2Proof.Proofs
end

section
/-! PROOFS. The statements on the command sequencer: acceptance, the ends of a command, the chunk split, and the
outcomes of a transaction, of a poll, of a program's `Mutate` and of the identification. -/

namespace Sys2Proof.Machine

open Sys2Proof.Safety

/-! ### Acceptance (40_flash_controller.md R97) -/

/-- A placed word is the accepted command with the sequencer's move next, wherever the agenda names another agent. -/
theorem withFetchWord_eq (w : Word) (s : State) : s.withFetchWord 32 w.toNat =
    if s.agenda = [] ∧ devBusy s.dev = false then accept w s
    else { accept w s with agenda := .sequencer :: s.agenda } := by
  rw [State.withFetchWord, Nat.mod_eq_of_lt w.isLt, BitVec.ofNat_toNat, BitVec.setWidth_eq, placeCommand]

theorem pending_eq_none_of_not_devBusy {d : Device} (h : devBusy d = false) : d.pending = none :=
  Option.isNone_iff_eq_none.1 (Option.isSome_eq_false_iff.1 h)

/-! ### The ends of a command (40_flash_controller.md R100) -/

/-- `finish` with no race recorded writes STATUS and the sequencer, and forgets the chunk last issued. -/
theorem finish_of_raced_nil {s : State} (h : s.raced = []) (c : Code) : finish c s = { s with
    status := { s.status with busy := false, done := true, err := c }, seq := .idle, issued := none } := by
  simp [finish, statusFinish, h]

section
variable {s : State} {l : Latch} {i : Instr} {c : Code}

/-- `finish` of a command whose races have no effect on it (70_reset_and_hazards.md R163). -/
theorem play_finish_of_settleOf (hs : s.seq = .run l (.finish c)) (hd : decode l.opw = .ok i)
    (hsettle : settleOf i c s = (c, s)) : play (seqMoves 1) s = .next (finish c s) := by
  have hfinish : microStep i l (.finish c) s = .next (finish c s) := by rw [microStep, hsettle]
  exact play_sequencer hs hd hfinish []

/-- The whole run of a command that its check ends, with no host write in its range. -/
theorem play_ended_by_check (hs : s.seq = .run l .decode) (hd : decode l.opw = .ok i)
    (hfirst : firstOf s.cfg i l = .check) (hplan : planOf s.cfg i l = .finish c) (hraced : s.raced = []) :
    play (seqMoves 3) s = .next (finish c s) := by
  have hdecode : microStep i l .decode s = .next (enter l .check s) := by rw [← hfirst]; rfl
  have hcheck : microStep i l .check (enter l .check s) = .next (enter l (.finish c) s) := by rw [← hplan]; rfl
  calc play (seqMoves 3) s
      = play (seqMoves 2) (enter l .check s) := play_sequencer hs hd hdecode _
    _ = play (seqMoves 1) (enter l (.finish c) s) := play_sequencer (enter_seq ..) hd hcheck _
    _ = .next (finish c (enter l (.finish c) s)) := play_finish (enter_seq ..) hd hraced
    _ = .next (finish c s) := rfl

end

/-- A transfer of no bytes whose bounds pass ends OK at its check (40_flash_controller.md R106). -/
theorem planOf_zero_length {cfg : Config} {l : Latch} {i : Instr} (hi : i ∈ [Instr.read, .progPage, .write, .crcBuf])
    (hn : l.n = 0) (hb : l.b.toNat ≤ cfg.dbufSize) (ha : i ≠ .crcBuf → l.a.toNat ≤ Config.flashSize) :
    firstOf cfg i l = .check ∧ planOf cfg i l = .finish .ok := by
  have hcount : byteCount l = 0 := by rw [byteCount, hn]; rfl
  have hdbuf : pastDbuf cfg (dbufOffset l) 0 = false := pastDbuf_eq_false hb
  have hflash (hne : i ≠ .crcBuf) : pastFlash (flashAddr l) 0 = false := pastFlash_eq_false (ha hne)
  have hpage : crossesPage (flashAddr l) 0 = false :=
    crossesPage_eq_false (Nat.mod_lt _ (show 0 < Config.pageSize by decide)).le
  simp only [List.mem_cons, List.not_mem_nil, or_false] at hi
  rcases hi with rfl | rfl | rfl | rfl
  · exact ⟨rfl, by simp [planOf, planRead, hcount, hdbuf, hflash]⟩
  · exact ⟨rfl, by simp [planOf, planProgPage, hcount, hdbuf, hflash, hpage]⟩
  · exact ⟨rfl, by simp [planOf, planWrite, hcount, hdbuf, hflash]⟩
  · exact ⟨rfl, by simp [planOf, planCrcBuf, hcount, hdbuf]⟩

/-! ### The codes of a command (60_exceptions.md R133) -/

/-- The codes each command may finish with, by the table of R133. -/
def commandCodes : Instr → List Code
  | .nop => [.ok]
  | .read => [.ok, .errParam, .errSpi, .errTimeout]
  | .progPage => [.ok, .errParam, .errSpi, .errTimeout]
  | .write => [.ok, .errParam, .errSpi, .errTimeout]
  | .eraseSector => [.ok, .errParam, .errSpi, .errTimeout]
  | .eraseBlock => [.ok, .errParam, .errSpi, .errTimeout]
  | .eraseChip => [.ok, .errSpi, .errTimeout]
  | .readId => [.ok, .errSpi, .errTimeout, .errNodev]
  | .crcInit => [.ok]
  | .crcBuf => [.ok, .errParam]
  | .validateRecord => [.ok, .errParam, .errCrc]
  | .validateHeader => [.ok, .errParam, .errCrc]

/-- One test of a check: it ends the command with a code of `cs`, or the rest of the check decides. -/
theorem codeFits_ite {P : Prop} [Decidable P] {cs : List Code} {c d : Code} {q : Phase} (hd : d ∈ cs)
    (hq : codeFits q c → c ∈ cs) (h : codeFits (if P then .finish d else q) c) : c ∈ cs := by
  split at h
  · obtain rfl : c = d := h
    exact hd
  · exact hq h

/-- A job of the bus other than the identification ends OK, with a failed transaction or with a timeout. -/
theorem mem_of_bus_code {cs : List Code} {c : Code} (hcs : [Code.ok, .errSpi, .errTimeout] ⊆ cs)
    (h : c = .ok ∨ c = .errSpi ∨ c = .errTimeout) : c ∈ cs :=
  hcs (by simpa using h)

/-- The codes that fit a command's micro-program are those the table gives it. -/
theorem codeFits_planOf {cfg : Config} {l : Latch} {i : Instr} {c : Code} (h : codeFits (planOf cfg i l) c) :
    c ∈ commandCodes i := by
  cases i with
  | nop | crcInit => exact List.mem_singleton.2 h
  | read | write =>
    refine codeFits_ite (by decide) (codeFits_ite (by decide) (codeFits_ite (by decide) fun hbus => ?_)) h
    exact mem_of_bus_code (by decide) hbus
  | progPage =>
    refine codeFits_ite (by decide) (codeFits_ite (by decide) (codeFits_ite (by decide) (codeFits_ite (by decide)
      fun hbus => ?_))) h
    exact mem_of_bus_code (by decide) hbus
  | eraseSector | eraseBlock =>
    refine codeFits_ite (by decide) (fun hbus => ?_) h
    exact mem_of_bus_code (by decide) hbus
  | eraseChip => exact mem_of_bus_code (by decide) h
  | readId =>
    have hcode : c = .ok ∨ c = .errSpi ∨ c = .errTimeout ∨ c = .errNodev := h
    simpa [commandCodes] using hcode
  | crcBuf =>
    refine codeFits_ite (by decide) (codeFits_ite (by decide) fun hok => ?_) h
    exact List.mem_cons.2 (.inl hok)
  | validateRecord | validateHeader =>
    refine codeFits_ite (by decide) (fun hjudged => ?_) h
    rcases hjudged with rfl | rfl <;> decide

/-- A race replaces the code of a validation only, and by a code of a validation. -/
theorem settleOf_code_mem {i : Instr} {c : Code} (h : c ∈ commandCodes i) (s : State) :
    (settleOf i c s).1 ∈ commandCodes i := by
  have hvalidate {cs : List Code} (hcs : [Code.ok, .errParam, .errCrc] ⊆ cs) (hc : c ∈ cs) :
      (settleValidate c s).1 ∈ cs := by
    unfold settleValidate
    split
    · exact hc
    · dsimp only
      split
      · exact hcs (by decide)
      · split <;> exact hcs (by decide)
  cases i with
  | crcBuf =>
    show (settleCrc c s).1 ∈ _
    unfold settleCrc
    split <;> exact h
  | validateRecord | validateHeader => exact hvalidate (by decide) h
  | _ => exact h

/-- Every micro-step but `finish` leaves the command running. -/
theorem microStep_phaseStep {i : Instr} {l : Latch} {p : Phase} {s t : State} (hs : s.seq = .run l p)
    (ht : microStep i l p s = .next t) (hp : ∀ c, p ≠ .finish c) : ∃ q, PhaseStep l q s t := by
  cases p with
  | decode | check => cases ht; exact ⟨_, enter_phaseStep l _ s⟩
  | prePoll tmo job =>
    cases ht
    obtain ⟨q, hq, -⟩ := pollStep_transacts (afterPrePoll tmo job) hs
    exact ⟨q, hq.phaseStep⟩
  | receive a n b =>
    cases ht
    obtain ⟨bytes, code, hq, -⟩ := receiveStep_transacts l a n b s
    exact ⟨_, hq.phaseStep⟩
  | deposit b bytes code => cases ht; exact ⟨_, depositStep_phaseStep l b bytes code s⟩
  | identify =>
    cases ht
    obtain ⟨u, id, st, q, hu, heq, -, hst, -⟩ := identifyStep_transaction l s
    rw [heq]
    exact ⟨q, identifyStep_phaseStep id hu hst⟩
  | writeEnable tmo op rest =>
    cases ht
    obtain ⟨q, hq, -⟩ := writeEnableStep_transacts l tmo op rest s
    exact ⟨q, hq.phaseStep⟩
  | frame tmo op rest =>
    obtain ⟨f, q, hq, -⟩ := frameStep_transacts ht
    exact ⟨q, hq.phaseStep⟩
  | postPoll tmo rest =>
    cases ht
    obtain ⟨q, hq, -⟩ := pollStep_transacts (afterPostPoll tmo rest) hs
    exact ⟨q, hq.phaseStep⟩
  | seed => cases ht; exact ⟨_, seedStep_phaseStep l s⟩
  | feed k =>
    obtain ⟨c, q, rfl, -⟩ := feedStep_next ht
    exact ⟨q, feed_phaseStep l q c s⟩
  | judge img =>
    obtain ⟨val, stored, magic, version, crc, code, rfl, -⟩ := judgeStep_next ht
    exact ⟨_, judge_phaseStep l _ val stored magic version crc s⟩
  | finish code => exact absurd rfl (hp code)

/-- A micro-step that leaves the sequencer Idle is a `finish` (40_flash_controller.md R100). -/
theorem microStep_idle {i : Instr} {l : Latch} {p : Phase} {s t : State} (hs : s.seq = .run l p)
    (ht : microStep i l p s = .next t) (hidle : t.seq = .idle) :
    ∃ c, p = .finish c ∧ t = finish (settleOf i c s).1 (settleOf i c s).2 := by
  by_cases hp : ∃ c, p = .finish c
  · obtain ⟨c, rfl⟩ := hp
    cases ht
    exact ⟨c, rfl, rfl⟩
  · obtain ⟨q, hq⟩ := microStep_phaseStep hs ht (not_exists.1 hp)
    rw [hq.seq_eq] at hidle
    cases hidle

/-! ### The chunk split (40_flash_controller.md R110) -/

/-- `cs` splits `n` bytes from flash address `a` and DBUF offset `b`: every chunk holds a byte and stays inside its
page, and every chunk but the last ends its page. -/
inductive PageSplit : Nat → Nat → Nat → List Chunk → Prop
  | nil (a b : Nat) : PageSplit a b 0 []
  | cons {a b m n : Nat} {cs : List Chunk} (hpos : 0 < m) (hpage : a % 256 + m ≤ 256)
      (hend : n = 0 ∨ a % 256 + m = 256) (hrest : PageSplit (a + m) (b + m) n cs) :
      PageSplit a b (m + n) ({ addr := a, boff := b, len := m } :: cs)

/-- The split of R110 splits at page ends. -/
theorem chunks_pageSplit (a b n : Nat) : PageSplit a b n (chunks a b n) := by
  induction n using Nat.strong_induction_on generalizing a b with
  | _ n ih =>
    obtain rfl | hn := Nat.eq_zero_or_pos n
    · exact .nil a b
    · obtain ⟨m, hm⟩ : ∃ m, m = min n (256 - a % 256) := ⟨_, rfl⟩
      have hcons : chunks a b n = { addr := a, boff := b, len := m } :: chunks (a + m) (b + m) (n - m) := by
        rw [hm]
        exact chunks_cons hn
      have hsplit := PageSplit.cons (a := a) (b := b) (m := m) (by omega) (by omega) (by omega)
        (ih (n - m) (by omega) (a + m) (b + m))
      rwa [Nat.add_sub_cancel' (by omega), ← hcons] at hsplit

section
variable {a b n : Nat} {cs : List Chunk}

theorem PageSplit.bounds (h : PageSplit a b n cs) :
    ∀ c ∈ cs, 1 ≤ c.len ∧ c.len ≤ 256 ∧ c.addr % 256 + c.len ≤ 256 := by
  induction h with
  | nil => exact List.forall_mem_nil _
  | cons hpos hpage hend hrest ih => exact List.forall_mem_cons.2 ⟨⟨hpos, by dsimp only; omega, hpage⟩, ih⟩

theorem PageSplit.flash_cover (h : PageSplit a b n cs) :
    cs.flatMap (fun c => List.range' c.addr c.len) = List.range' a n := by
  induction h with
  | nil => rfl
  | cons hpos hpage hend hrest ih => rw [List.flatMap_cons, ih, List.range'_append_1]

theorem PageSplit.dbuf_cover (h : PageSplit a b n cs) :
    cs.flatMap (fun c => List.range' c.boff c.len) = List.range' b n := by
  induction h with
  | nil => rfl
  | cons hpos hpage hend hrest ih => rw [List.flatMap_cons, ih, List.range'_append_1]

/-- One chunk for each page that the range meets. -/
theorem PageSplit.length_eq (h : PageSplit a b n cs) :
    cs.length = if n = 0 then 0 else (a % 256 + n + 255) / 256 := by
  induction h with
  | nil => rfl
  | cons hpos hpage hend hrest ih =>
    rw [List.length_cons, ih]
    split <;> split <;> omega

end

/-- A range inside one page is one chunk. -/
theorem chunks_of_one_page {a b n : Nat} (hn : 0 < n) (hpage : a % Config.pageSize + n ≤ Config.pageSize) :
    chunks a b n = [{ addr := a, boff := b, len := n }] := by
  have hm : min n (Config.pageSize - a % Config.pageSize) = n := by omega
  rw [chunks_cons hn, hm, Nat.sub_self, chunks_zero]

/-- WRITE inside one page checks the same bounds as PROG_PAGE and plans the same `Mutate` (R111). -/
theorem planWrite_of_one_page (cfg : Config) {l : Latch}
    (hpage : flashAddr l % Config.pageSize + byteCount l ≤ Config.pageSize) :
    planWrite cfg l = planProgPage cfg l := by
  have hcross := crossesPage_eq_false hpage
  unfold planWrite planProgPage
  rw [hcross]
  obtain hn | hn := Nat.eq_zero_or_pos (byteCount l)
  · simp [hn]
  · simp [chunks_of_one_page hn hpage]

/-! ### What a failed transaction leaves of the device (40_flash_controller.md R102) -/

/-- With no device present a failed transaction has no effect on one. -/
theorem transportFailure_absent {s : State} (h : s.dev.fitted = none) (f : Frame) : transportFailure f s = s := by
  unfold transportFailure
  rw [h]

/-- A busy device ignores a program or erase frame that fails. -/
theorem transportFailure_busy {f : Frame} {s : State} {op : DevOp} (hp : s.dev.pending ≠ none)
    (hf : frameOp s.cfg f = some op) : transportFailure f s = s := by
  unfold transportFailure
  split
  · rfl
  · cases hf
  · rw [hf]
    exact if_pos (Option.isSome_iff_ne_none.2 hp)

/-- A failed write enable changes at most WEL. -/
theorem transportFailure_writeEnable_dev (s : State) : (transportFailure .writeEnable s).dev =
    { s.dev with wel := (transportFailure .writeEnable s).dev.wel } := by
  unfold transportFailure
  split <;> rfl

/-- A failed program or erase frame changes at most WEL and the pending operation. -/
theorem transportFailure_mutation_dev {f : Frame} {s : State} {op : DevOp} (hf : frameOp s.cfg f = some op) :
    (transportFailure f s).dev = { s.dev with
      wel := (transportFailure f s).dev.wel, pending := (transportFailure f s).dev.pending } := by
  by_cases h : s.dev.fitted = none
  · rw [transportFailure_absent h]
  · by_cases hp : s.dev.pending = none
    · rw [transportFailure_mutation h hp hf]
      rfl
    · rw [transportFailure_busy hp hf]

/-- A program or erase frame that fails on an idle device leaves nothing or draws over its range pending. -/
theorem transportFailure_mutation_pending {f : Frame} {s : State} {op : DevOp} (hp : s.dev.pending = none)
    (hf : frameOp s.cfg f = some op) : (transportFailure f s).dev.pending = none ∨
      (transportFailure f s).dev.pending = some (.draws (opRange op).1 (opRange op).2) := by
  by_cases h : s.dev.fitted = none
  · rw [transportFailure_absent h]
    exact .inl hp
  · rw [transportFailure_mutation h hp hf]
    show (if _ then _ else _) = _ ∨ (if _ then _ else _) = _
    split
    · exact .inr rfl
    · exact .inl rfl

/-! ### The frames on the wire (40_flash_controller.md R102) -/

theorem transportFailure_spiLog (f : Frame) (s : State) : (transportFailure f s).spiLog = s.spiLog := by
  unfold transportFailure
  split
  · rfl
  · rfl
  · split
    · rfl
    · split <;> rfl

theorem acceptOp_spiLog (op : DevOp) (s : State) : (acceptOp op s).spiLog = s.spiLog := by
  unfold acceptOp
  split <;> rfl

theorem deviceTakes_spiLog (f : Frame) (s : State) : (deviceTakes f s).2.spiLog = s.spiLog := by
  have hmutation : ((frameOp s.cfg f).elim s fun op => acceptOp op s).spiLog = s.spiLog := by
    cases frameOp s.cfg f with
    | none => rfl
    | some op => exact acceptOp_spiLog op s
  unfold deviceTakes
  split
  · rfl
  · split
    case h_1 => rfl
    case h_2 => split <;> rfl
    case h_3 => split <;> rfl
    case h_4 => split <;> rfl
    all_goals exact hmutation

/-- A transaction is one frame on the wire. -/
theorem xfer_spiLog (f : Frame) (s : State) : (xfer f s).2.spiLog = f :: s.spiLog := by
  by_cases h : transactionFails s
  · rw [xfer_fail h]
    exact transportFailure_spiLog f (sent f s)
  · rw [xfer_ok h]
    exact deviceTakes_spiLog f (sent f s)

/-- The two outcomes of a transaction. -/
theorem xfer_eq (f : Frame) (s : State) : xfer f s =
    if transactionFails s then (none, transportFailure f (sent f s))
    else (some (deviceTakes f (sent f s)).1, (deviceTakes f (sent f s)).2) := by
  split
  · next h => exact xfer_fail h
  · next h => exact xfer_ok h

/-! ### The identification (40_flash_controller.md R115) -/

/-- The reply of a fitted device is its identification, first byte high (10_state.md R37). -/
theorem replyId_idBytes (id : Word24) : replyId (idBytes id) = id := by
  apply BitVec.eq_of_getLsbD_eq
  intro k hk
  simp only [replyId, idBytes, List.getD_cons_zero, List.getD_cons_succ, BitVec.getLsbD_append,
    BitVec.getLsbD_extractLsb']
  by_cases hlow : k < 8
  · simp [hlow]
  · by_cases hmid : k < 16
    · simp [hlow, show k - 8 < 8 by omega, show 8 + (k - 8) = k by omega]
    · simp [hlow, show ¬ k - 8 < 8 by omega, show k - 8 - 8 < 8 by omega, show 16 + (k - 8 - 8) = k by omega]

/-- A failed identification leaves JEDEC_ID as it is. -/
theorem identifyStep_fail {s : State} (hx : transactionFails s) (l : Latch) :
    identifyStep l s = enter l (.finish .errSpi) (sent .jedecId s) := by
  unfold identifyStep
  rw [xfer_fail hx, transportFailure_of_no_effect rfl (by simp)]

/-- READ_ID's transaction that receives `reply`, of which `d` bytes are draws: JEDEC_ID takes the bytes, and ID_OK and
the code say whether they are the expected ones. -/
theorem identifyStep_ok {s : State} {reply : List Byte} {d : Nat} (hx : ¬ transactionFails s)
    (hreply : deviceTakes .jedecId (sent .jedecId s) = (reply, bump d (sent .jedecId s))) (l : Latch) :
    identifyStep l s = { s with
      draws := s.draws + 1 + d, spiLog := .jedecId :: s.spiLog
      jedecId := (replyId reply).setWidth 32
      status := { s.status with idOk := s.status.idOk || replyId reply == s.cfg.expectedJedecId }
      seq := .run l (.finish (if replyId reply = s.cfg.expectedJedecId then .ok else .errNodev)) } := by
  unfold identifyStep
  rw [xfer_ok hx, hreply]
  by_cases hid : replyId reply = s.cfg.expectedJedecId
  · simp [hid, sent, bump, enter, statusIdentified]
  · have hne : (replyId reply == s.cfg.expectedJedecId) = false := beq_eq_false_iff_ne.2 hid
    simp [hid, hne, sent, bump, enter]

/-- An identification transaction from `s` receives `id`: the identification of a fitted idle device, or three draws
with no device present. -/
def Answers (s : State) (id : Word24) : Prop :=
  (s.dev.fitted = some id ∧ s.dev.pending = none) ∨
    (s.dev.fitted = none ∧
      id = Config.freeByte (s.draws + 1) ++ Config.freeByte (s.draws + 2) ++ Config.freeByte (s.draws + 3))

theorem deviceTakes_jedecId_of_answers {s : State} {id : Word24} (h : Answers s id) :
    ∃ reply, replyId reply = id ∧ deviceTakes .jedecId (sent .jedecId s) =
      (reply, bump (if s.dev.fitted = none then 3 else 0) (sent .jedecId s)) := by
  rcases h with ⟨hfitted, hp⟩ | ⟨hfitted, rfl⟩
  · refine ⟨idBytes id, replyId_idBytes id, ?_⟩
    rw [deviceTakes_jedecId (s := sent .jedecId s) hfitted hp, if_neg (by simp [hfitted])]
    rfl
  · refine ⟨freeBytes (s.draws + 1) 3, rfl, ?_⟩
    rw [deviceTakes_absent (s := sent .jedecId s) hfitted, if_pos hfitted]
    rfl

/-- READ_ID's transaction: everything it can do. -/
theorem identifyStep_eq {s : State} {id : Word24} (h : Answers s id) (l : Latch) :
    identifyStep l s =
      if transactionFails s then
        { s with draws := s.draws + 1, spiLog := .jedecId :: s.spiLog, seq := .run l (.finish .errSpi) }
      else { s with
        draws := s.draws + (if s.dev.fitted = none then 4 else 1), spiLog := .jedecId :: s.spiLog
        jedecId := id.setWidth 32
        status := { s.status with idOk := s.status.idOk || id == s.cfg.expectedJedecId }
        seq := .run l (.finish (if id = s.cfg.expectedJedecId then .ok else .errNodev)) } := by
  split
  · next hx => exact identifyStep_fail hx l
  · next hx =>
    obtain ⟨reply, rfl, hreply⟩ := deviceTakes_jedecId_of_answers h
    have hdraws : s.draws + 1 + (if s.dev.fitted = none then 3 else 0) =
        s.draws + (if s.dev.fitted = none then 4 else 1) := by split <;> omega
    rw [identifyStep_ok hx hreply, hdraws]

end Sys2Proof.Machine

namespace Sys2Proof.Proofs

open Sys2Proof.Machine Sys2Proof.Safety

/-- Settles O32: the check of no bytes leads to `finish(OK)`. -/
theorem zeroLengthFinishesOk : Obligations.ZeroLengthFinishesOk := by
  intro s l i hi hs hd hraced hn hb ha
  obtain ⟨hfirst, hplan⟩ := planOf_zero_length hi hn hb ha
  rw [play_ended_by_check hs hd hfirst hplan hraced, finish_of_raced_nil hraced]

/-- Settles O33, by induction over the split. -/
theorem chunksSplitAtPageEnds : Obligations.ChunksSplitAtPageEnds := by
  intro a b n
  have hsplit := chunks_pageSplit a b n
  refine ⟨?recursion, hsplit.bounds, hsplit.flash_cover, hsplit.dbuf_cover, fun hn => ?count⟩
  case recursion =>
    split
    · next hn => rw [hn, chunks_zero]
    · next hn => exact chunks_cons (Nat.pos_of_ne_zero hn)
  case count => rw [hsplit.length_eq, if_neg hn.ne']

/-- Settles O34: the two checks decide alike. -/
theorem writeOfOnePageIsProgPage : Obligations.WriteOfOnePageIsProgPage := by
  intro s l hs hpage
  have hplan : planOf s.cfg .write l = planOf s.cfg .progPage l := planWrite_of_one_page s.cfg hpage
  rw [exec_run .write hs, exec_run .progPage hs, microStep, microStep, hplan]

/-- Settles O35, from the device's side of a failure by the frame's operation. -/
theorem transactionOutcomes : Obligations.TransactionOutcomes := by
  intro s f
  exact ⟨xfer_spiLog f s, (xfer_same f s).flash_eq, xfer_eq f s, transportFailure_of_no_effect,
    transportFailure_writeEnable_dev s, fun op hf => ⟨transportFailure_mutation_dev hf,
      fun hp => transportFailure_busy hp hf, fun hp => transportFailure_mutation_pending hp hf⟩⟩

/-- Settles O38: both polls are `pollStep`, each with the phase that a ready device leads to. -/
theorem pollOutcomes : Obligations.PollOutcomes := by
  intro i s l tmo job rest p hp hs
  have hpoll : exec i s = .next (pollStep l p.2 s) := by
    simp only [List.mem_cons, List.not_mem_nil, or_false] at hp
    rcases hp with rfl | rfl
    · exact exec_run i hs
    · cases rest <;> exact exec_run i hs
  rw [hpoll]
  exact ⟨fun h => congrArg Host.Outcome.next (pollStep_fitted p.2 h hs),
    fun h => congrArg Host.Outcome.next (pollStep_absent p.2 h hs)⟩

/-- Settles O39: the write-enable transaction of any `Mutate`, then the frame of the chunk's program. -/
theorem programFrameIsAccepted : Obligations.ProgramFrameIsAccepted := by
  intro s l tmo c rest i hi hcfg hready hc
  obtain ⟨hfitted, hidle⟩ := hready
  refine ⟨fun hs => ?writeEnable, fun hs hwel => ⟨fun hdef hraced => ?frame, fun hundef => ?fault⟩⟩
  case writeEnable =>
    rw [exec_run i hs]
    exact congrArg Host.Outcome.next (writeEnableStep_idle hfitted hidle)
  case frame =>
    rw [exec_run i hs, microStep, frameStep_unraced (op := .program c) hraced hdef,
      sendMutation_idle hfitted hidle hwel (frameOp_program hcfg hc s.dbuf), opRange, dbufBytes_length]
    rfl
  case fault =>
    rw [exec_run i hs, microStep, frameStep, if_neg (by simp [hundef])]

/-- Settles O48: `identifyStep_eq` gives the transaction, and the run is decode, pre-poll, transaction and
`finish`. -/
theorem readIdReportsTheDevice : Obligations.ReadIdReportsTheDevice := by
  intro s l id
  refine ⟨fun hs h => ?transaction, fun hs hd hx hfitted hp => ?run⟩
  case transaction =>
    rw [exec_run .readId hs]
    exact congrArg Host.Outcome.next (identifyStep_eq h l)
  case run =>
    have hb : BusReady s := ⟨hx, by simp [hfitted], hp⟩
    set polled := enter l .identify (sent .readStatus s) with hpolled
    have hidentify := identifyStep_eq (s := polled) (.inl ⟨hfitted, hp⟩) l
    rw [if_neg (by simp [hpolled, sent, hx])] at hidentify
    calc play (seqMoves 4) s
        = play (seqMoves 2) polled := play_unchecked hs hd rfl hb _
      _ = play (seqMoves 1) (identifyStep l polled) := play_sequencer rfl hd rfl _
      _ = .next (finish _ (identifyStep l polled)) := play_finish_of_settleOf (by rw [hidentify]) hd rfl
      _ = _ := by
          rw [hidentify]
          simp [hpolled, finish, statusFinish, enter, sent, hfitted]

/-- Settles O60: by the invariant the code of a `finish` fits the command's micro-program, and a race replaces it by a
code of the table. -/
theorem commandsFinishWithTheirCodes : Obligations.CommandsFinishWithTheirCodes := by
  refine ⟨?codes, ?exact, rfl⟩
  case codes =>
    intro i s t l p hinv hs hd ht hidle
    obtain ⟨c, rfl, rfl⟩ := microStep_idle hs (exec_run i hs ▸ ht) hidle
    have hfits : codeFits (planOf s.cfg i l) c := planOfWord_ok hd ▸ hinv.phase_ok l _ hs
    have hmem := settleOf_code_mem (codeFits_planOf hfits) s
    exact ⟨rfl, rfl, hmem⟩
  case exact =>
    intro i s l c hs hraced
    rw [exec_run i hs, microStep, settleOf_unraced i c hraced, finish_of_raced_nil hraced]

/-- Settles O5: with the accepted state the default move is the sequencer's, or the agenda names it. -/
theorem placedWordRunsInTheNextStep : Obligations.PlacedWordRunsInTheNextStep := by
  intro s w i hd
  have hexec : moveStep .sequencer (accept w s) = exec i (accept w s) := moveStep_sequencer_exec (accept_seq w s) hd
  rw [withFetchWord_eq]
  split
  · next h =>
    obtain ⟨hagenda, hidle⟩ := h
    have hmove : defaultMove (accept w s) = .sequencer := by
      rw [defaultMove_eq, accept_dev, if_pos (pending_eq_none_of_not_devBusy hidle)]
    rw [step_of_agenda_nil (by rw [accept_agenda, hagenda]), hmove, hexec]
  · exact (step_of_agenda_cons rfl).trans hexec

/-- Settles O9: the write is the CMD register's own. -/
theorem cmdWriteAcceptsOrSetsOvr : Obligations.CmdWriteAcceptsOrSetsOvr := by
  intro s w h
  refine (hostStep_write_reg h .cmd w).trans (congrArg Host.Outcome.next ?_)
  cases hbusy : s.status.busy with
  | false => exact if_neg (by simp [hbusy])
  | true => exact if_pos hbusy

/-- Settles O30: decode leads to `finish(OK)`, where NOP has no race to settle. -/
theorem nopFinishesOk : Obligations.NopFinishesOk := by
  intro s l
  refine ⟨fun hs => exec_run .nop hs, fun hs hd => ?_⟩
  calc play (seqMoves 2) s
      = play (seqMoves 1) (enter l (.finish .ok) s) := play_sequencer hs hd rfl _
    _ = .next (finish .ok (enter l (.finish .ok) s)) := play_finish_of_settleOf (enter_seq ..) hd rfl

end Sys2Proof.Proofs
end

section
/-! PROOFS. The statements on the CRC and on the commands that use it: the table form of the update, what one changed
byte does to the digest and to an image, and the whole runs of CRC_INIT, CRC_BUF and the two validations. -/

namespace Sys2Proof.Machine

open Sys2Proof.Safety

/-! ### The CRC function (41_crc_validator.md R119-R121) -/

theorem word_eq_low_xor_high (x : Word) : x = (x.extractLsb' 0 8).setWidth 32 ^^^ ((x >>> 8) <<< 8) := by
  apply BitVec.eq_of_getLsbD_eq
  intro i hi
  by_cases hlow : i < 8
  · simp [hi, hlow]
  · simp [hi, hlow, show 8 + (i - 8) = i by omega]

theorem high_ushiftRight (x : Word) : ((x >>> 8) <<< 8) >>> 8 = x >>> 8 := by
  apply BitVec.eq_of_getLsbD_eq
  intro i hi
  by_cases hin : 8 + i < 32
  · simp [hin]
  · simp [hin, BitVec.getLsbD_of_ge x (8 + i) (by omega)]

/-- Eight iterations take the low byte to its table entry and shift the other three down: the loop is linear, and on
a word with a low byte of 0 it only shifts. -/
theorem crcBits_eight (x : Word) : crcBits 8 x = crcTable (x.extractLsb' 0 8) ^^^ (x >>> 8) := by
  have hhigh : crcBits 8 ((x >>> 8) <<< 8) = x >>> 8 := by
    rw [crcBits_of_low_zero 8 _ fun i hi => by simp [hi], high_ushiftRight]
  calc crcBits 8 x
      = crcBits 8 ((x.extractLsb' 0 8).setWidth 32 ^^^ ((x >>> 8) <<< 8)) :=
        congrArg (crcBits 8) (word_eq_low_xor_high x)
    _ = crcTable (x.extractLsb' 0 8) ^^^ (x >>> 8) := by rw [crcBits_xor, hhigh, crcTable]

/-- The table form of the update: the byte meets the low byte of the state only (R120). -/
theorem crcUpdate_eq_crcTable (c : Word) (d : Byte) :
    crcUpdate c d = crcTable ((c ^^^ d.setWidth 32).extractLsb' 0 8) ^^^ (c >>> 8) := by
  have hhigh : (c ^^^ d.setWidth 32) >>> 8 = c >>> 8 := by
    apply BitVec.eq_of_getLsbD_eq
    intro i hi
    simp
  rw [crcUpdate, crcBits_eight, hhigh]

/-- The update is one to one in the byte. -/
theorem crcUpdate_injective_byte (c : Word) {d e : Byte} (h : crcUpdate c d = crcUpdate c e) : d = e := by
  have hword : d.setWidth 32 = e.setWidth 32 := (BitVec.xor_right_inj c).1 (crcBits_injective 8 h)
  simpa using congrArg (BitVec.setWidth 8) hword

/-- The digest is one to one in each byte of the sequence. -/
theorem crc32_injective_byte (pre post : List Byte) {d e : Byte}
    (h : crc32 (pre ++ d :: post) = crc32 (pre ++ e :: post)) : d = e := by
  have hfeed : crcFeed Config.crcSeed (pre ++ d :: post) = crcFeed Config.crcSeed (pre ++ e :: post) :=
    (BitVec.xor_left_inj Config.crcXorOut).1 h
  rw [crcFeed_append, crcFeed_append] at hfeed
  exact crcUpdate_injective_byte _ (crcFeed_injective post hfeed)

/-- A changed byte changes the digest. -/
theorem crc32_set_ne {ds : List Byte} {k : Nat} (hk : k < ds.length) {v : Byte} (hv : v ≠ ds[k]) :
    crc32 (ds.set k v) ≠ crc32 ds := by
  intro h
  rw [List.set_eq_take_append_cons_drop, if_pos hk] at h
  conv at h => rhs; rw [← List.take_append_drop k ds, List.drop_eq_getElem_cons hk]
  exact hv (crc32_injective_byte _ _ h)

/-! ### DBUF with one changed byte -/

/-- A changed byte changes the little-endian word. -/
theorem leWord_set_ne {vs : List Byte} (hlen : vs.length ≤ 4) {k : Nat} (hk : k < vs.length) {v : Byte}
    (hv : v ≠ vs[k]) : leWord (vs.set k v) ≠ leWord vs := by
  intro h
  have hbyte := leWord_extractLsb' (vs.set k v) (by simpa using hlen) k (by simpa using hk)
  rw [h, leWord_extractLsb' vs hlen k hk, List.getElem_set_self] at hbyte
  exact hv hbyte.symm

theorem dbufBytes_getElem (m : Memory) (b n : Nat) {i : Nat} (hi : i < (dbufBytes m b n).length) :
    (dbufBytes m b n)[i] = dbufByte m (b + i) := by
  simp [dbufBytes]

theorem dbufBytes_succ (m : Memory) (b n : Nat) :
    dbufBytes m b (n + 1) = dbufByte m b :: dbufBytes m (b + 1) n := by
  simp [dbufBytes, List.range_succ_eq_map, Function.comp_def, Nat.add_right_comm, ← Nat.add_assoc]

/-- A changed byte outside a range leaves its bytes. -/
theorem dbufBytes_memSet_outside (m : Memory) (v : Byte) {a b n : Nat} (h : a < b ∨ b + n ≤ a) :
    dbufBytes (memSet m a v) b n = dbufBytes m b n := by
  refine List.map_congr_left fun i hi => ?_
  have hi' := List.mem_range.1 hi
  rw [dbufByte, memGet_memSet_ne _ _ (by omega)]
  rfl

/-- A changed byte inside a range is that byte of its list. -/
theorem dbufBytes_memSet_inside (m : Memory) (v : Byte) (b n k : Nat) :
    dbufBytes (memSet m (b + k) v) b n = (dbufBytes m b n).set k v := by
  apply List.ext_getElem
  · simp
  · intro i h1 h2
    rw [List.getElem_set, dbufBytes_getElem, dbufBytes_getElem, dbufByte, memGet_memSet]
    by_cases hki : k = i
    · simp [hki]
    · simp [hki, dbufByte]

theorem dbufDefined_memSet {m : Memory} {b n : Nat} (h : dbufDefined m b n = true) (a : Nat) (v : Byte) :
    dbufDefined (memSet m a v) b n = true := by
  rw [dbufDefined_iff] at h ⊢
  intro i hi
  rw [memGet_memSet]
  split
  · exact ⟨v, rfl⟩
  · exact h i hi

/-! ### The judgement of an image (41_crc_validator.md R126-R128, R130) -/

/-- An image is what its CRC covers, and the stored CRC after it (00_scope.md R13, R14). -/
theorem imageSize_eq (img : Image) : imageSize img = imageCrcLen img + 4 := by cases img <;> rfl

theorem imageVersionOk_iff {img : Image} {m : Memory} {b : Nat} :
    imageVersionOk img m b = true ↔ img = .header ∧ le32At m (b + 4) = 1#32 := by
  cases img <;> simp [imageVersionOk]

/-- A valid image has its magic, the version if it is a header, and the CRC of its bytes (R126). -/
theorem imageValid_iff {img : Image} {m : Memory} {b : Nat} : imageValid img m b = true ↔
    le32At m b = imageMagic img ∧ (img = .header → le32At m (b + 4) = 1#32) ∧
      imageCalc img m b = imageStored img m b := by
  cases img <;> simp [imageValid, imageMagicOk, imageVersionOk, and_assoc]

/-- One changed byte of an image whose CRC agrees makes it disagree: before the stored CRC it changes the computed
one and leaves the stored one, and in the stored CRC the other way round (R130). -/
theorem imageCalc_ne_imageStored_of_changed {img : Image} {m : Memory} {b k : Nat} {v : Byte}
    (hagree : imageCalc img m b = imageStored img m b) (hk : k < imageSize img) (hv : v ≠ dbufByte m (b + k)) :
    imageCalc img (memSet m (b + k) v) b ≠ imageStored img (memSet m (b + k) v) b := by
  rw [imageSize_eq] at hk
  by_cases hcovered : k < imageCrcLen img
  · have hstored : imageStored img (memSet m (b + k) v) b = imageStored img m b :=
      congrArg leWord (dbufBytes_memSet_outside m v (.inl (by omega)))
    rw [hstored, ← hagree, imageCalc, dbufBytes_memSet_inside]
    exact crc32_set_ne (by simpa using hcovered) (by rwa [dbufBytes_getElem])
  · obtain ⟨j, rfl⟩ := Nat.exists_eq_add_of_le (Nat.le_of_not_lt hcovered)
    have hcalc : imageCalc img (memSet m (b + (imageCrcLen img + j)) v) b = imageCalc img m b :=
      congrArg crc32 (dbufBytes_memSet_outside m v (.inr (by omega)))
    rw [← Nat.add_assoc] at hv hcalc ⊢
    rw [hcalc, hagree, imageStored, imageStored, le32At, le32At, dbufBytes_memSet_inside]
    exact (leWord_set_ne (by simp) (by simp; omega) (by rwa [dbufBytes_getElem])).symm

/-- The code of a validation (R127, R128). -/
def judgeCode (img : Image) (m : Memory) (b : Nat) : Code := if imageValid img m b then .ok else .errCrc

theorem judgeCode_record (m : Memory) (b : Nat) : judgeCode .record m b =
    if le32At m b = 0xFEEDDA7A#32 ∧ crc32 (dbufBytes m b 60) = le32At m (b + 60) then .ok else .errCrc := by
  simp [judgeCode, imageValid_iff, imageMagic, imageCalc, imageStored, imageCrcLen]

theorem judgeCode_header (m : Memory) (b : Nat) : judgeCode .header m b =
    if le32At m b = 0xF1A5DEAD#32 ∧ le32At m (b + 4) = 1#32 ∧ crc32 (dbufBytes m b 40) = le32At m (b + 40)
    then .ok else .errCrc := by
  simp [judgeCode, imageValid_iff, imageMagic, imageCalc, imageStored, imageCrcLen]

/-- The state after a validation's computation. -/
def judged (l : Latch) (img : Image) (s : State) : State :=
  { s with
    valCalc := imageCalc img s.dbuf l.b.toNat
    valStored := imageStored img s.dbuf l.b.toNat
    status := { s.status with
      magicOk := imageMagicOk img s.dbuf l.b.toNat
      versionOk := imageVersionOk img s.dbuf l.b.toNat
      crcOk := imageCalc img s.dbuf l.b.toNat == imageStored img s.dbuf l.b.toNat }
    seq := .run l (.finish (judgeCode img s.dbuf l.b.toNat)) }

theorem judgeStep_of_defined {l : Latch} {img : Image} {s : State}
    (h : dbufDefined s.dbuf l.b.toNat (imageSize img) = true) : judgeStep l img s = .next (judged l img s) :=
  if_pos h

theorem judgeStep_of_undefined {l : Latch} {img : Image} {s : State}
    (h : dbufDefined s.dbuf l.b.toNat (imageSize img) = false) : judgeStep l img s = .fault .uninitDbufRead :=
  if_neg (by simp [dbufOffset, h])

/-! ### CRC_BUF's bytes (41_crc_validator.md R124) -/

/-- CRC_BUF's next phase after `k` bytes: byte `k`, if there is one. -/
def feedPhase (l : Latch) (k : Nat) : Phase := if k < byteCount l then .feed k else .finish .ok

theorem planCrcBuf_eq {cfg : Config} {l : Latch} (h : l.b.toNat + l.n.toNat ≤ cfg.dbufSize) :
    planCrcBuf cfg l = feedPhase l 0 := by
  have hbound : pastDbuf cfg (dbufOffset l) (byteCount l) = false := pastDbuf_eq_false h
  obtain hn | hn := Nat.eq_zero_or_pos (byteCount l)
  · rw [hn] at hbound
    simp [planCrcBuf, feedPhase, hbound, hn]
  · simp [planCrcBuf, feedPhase, hbound, hn, hn.ne']

/-- The state after bytes are fed into the running CRC (R122). -/
def fed (ds : List Byte) (s : State) : State := { s with crcState := crcFeed s.crcState ds }

theorem feedStep_of_defined {l : Latch} {k : Nat} {s : State} {v : Byte} (hk : k < byteCount l)
    (hv : memGet s.dbuf (l.b.toNat + k) = some v) :
    feedStep l k s = .next (enter l (feedPhase l (k + 1)) (fed [v] s)) := by
  rw [feedStep, if_pos hk, dbufOffset, hv]
  rfl

theorem feedStep_of_undefined {l : Latch} {k : Nat} {s : State} (hk : k < byteCount l)
    (hv : memGet s.dbuf (l.b.toNat + k) = none) : feedStep l k s = .fault .uninitDbufRead := by
  rw [feedStep, if_pos hk, dbufOffset, hv]

/-- The micro-steps of CRC_BUF from byte `i` of its range to the end feed those bytes in order. -/
theorem play_feed {l : Latch} (hd : decode l.opw = .ok .crcBuf) (ms : List Move) (k : Nat) {i : Nat} {s : State}
    (hik : i + k = l.n.toNat) (hdef : ∀ j < l.n.toNat, ∃ v, memGet s.dbuf (l.b.toNat + j) = some v) :
    play (seqMoves k ++ ms) (enter l (feedPhase l i) s) =
      play ms (enter l (.finish .ok) (fed (dbufBytes s.dbuf (l.b.toNat + i) k) s)) := by
  induction k generalizing i s with
  | zero =>
    have hend : feedPhase l i = .finish .ok := if_neg (by rw [byteCount]; omega)
    rw [hend]
    rfl
  | succ k ih =>
    have hi : i < byteCount l := by rw [byteCount]; omega
    obtain ⟨v, hv⟩ := hdef i hi
    have hphase : feedPhase l i = .feed i := if_pos hi
    have hbyte : dbufByte s.dbuf (l.b.toNat + i) = v := by rw [dbufByte, hv]; rfl
    have hfeed : microStep .crcBuf l (.feed i) (enter l (.feed i) s) =
        .next (enter l (feedPhase l (i + 1)) (fed [v] s)) := feedStep_of_defined (s := enter l (.feed i) s) hi hv
    calc play (seqMoves (k + 1) ++ ms) (enter l (feedPhase l i) s)
        = play (seqMoves k ++ ms) (enter l (feedPhase l (i + 1)) (fed [v] s)) := by
          rw [hphase]
          exact play_sequencer (enter_seq ..) hd hfeed _
      _ = play ms (enter l (.finish .ok) (fed (dbufBytes s.dbuf (l.b.toNat + (i + 1)) k) (fed [v] s))) :=
          ih (s := fed [v] s) (by omega) hdef
      _ = play ms (enter l (.finish .ok) (fed (dbufBytes s.dbuf (l.b.toNat + i) (k + 1)) s)) := by
          rw [dbufBytes_succ, hbyte]
          rfl

/-! ### Whole runs (40_flash_controller.md R98-R101) -/

section
variable {s : State} {l : Latch} {i : Instr}

/-- Decode and check of a command that has a check, whatever its outcome (R101). -/
theorem play_decode_check {p : Phase} (hs : s.seq = .run l .decode) (hd : decode l.opw = .ok i)
    (hfirst : firstOf s.cfg i l = .check) (hplan : planOf s.cfg i l = p) (ms : List Move) :
    play (seqMoves 2 ++ ms) s = play ms (enter l p s) := by
  have hdecode : microStep i l .decode s = .next (enter l .check s) := by rw [← hfirst]; rfl
  have hcheck : microStep i l .check (enter l .check s) = .next (enter l p s) := by rw [← hplan]; rfl
  calc play (seqMoves 2 ++ ms) s
      = play (seqMoves 1 ++ ms) (enter l .check s) := play_sequencer hs hd hdecode _
    _ = play ms (enter l p s) := play_sequencer (enter_seq ..) hd hcheck _

/-- A whole validation whose check passes, over a defined image with no host write in it. -/
theorem play_validation {img : Image} (hs : s.seq = .run l .decode) (hd : decode l.opw = .ok i)
    (hfirst : firstOf s.cfg i l = .check) (hplan : planOf s.cfg i l = .judge img) (hraced : s.raced = [])
    (hdef : dbufDefined s.dbuf l.b.toNat (imageSize img) = true) :
    play (seqMoves 4) s = .next (finish (judgeCode img s.dbuf l.b.toNat) (judged l img s)) := by
  have hjudge : microStep i l (.judge img) (enter l (.judge img) s) = .next (judged l img s) :=
    judgeStep_of_defined (s := enter l (.judge img) s) hdef
  calc play (seqMoves 4) s
      = play (seqMoves 2) (enter l (.judge img) s) := play_decode_check hs hd hfirst hplan _
    _ = play (seqMoves 1) (judged l img s) := play_sequencer (enter_seq ..) hd hjudge _
    _ = .next (finish (judgeCode img s.dbuf l.b.toNat) (judged l img s)) := play_finish rfl hd hraced

end

end Sys2Proof.Machine

namespace Sys2Proof.Proofs

open Sys2Proof.Machine Sys2Proof.Safety

/-- Settles O29: the changed byte makes the two CRCs of the record disagree. -/
theorem oneFlippedBitInvalidatesTheRecord : Obligations.OneFlippedBitInvalidatesTheRecord := by
  intro s l k j hs hdef hvalid hk hj
  set v := dbufByte s.dbuf (l.b.toNat + k) ^^^ BitVec.twoPow 8 j with hv
  set flipped : State := { s with dbuf := memSet s.dbuf (l.b.toNat + k) v }
  have hchanged : v ≠ dbufByte s.dbuf (l.b.toNat + k) := by
    intro h
    simpa [hv, hj] using congrArg (BitVec.getLsbD · j) h
  obtain ⟨-, -, hagree⟩ := imageValid_iff.1 hvalid
  have hne : imageCalc .record flipped.dbuf l.b.toNat ≠ imageStored .record flipped.dbuf l.b.toNat :=
    imageCalc_ne_imageStored_of_changed hagree hk hchanged
  have hinvalid : imageValid .record flipped.dbuf l.b.toNat ≠ true := fun h =>
    let ⟨_, _, hstill⟩ := imageValid_iff.1 h
    hne hstill
  refine ⟨judged l .record flipped, ?_, beq_eq_false_iff_ne.2 hne, ?_⟩
  · exact (exec_run .validateRecord (s := flipped) hs).trans
      (judgeStep_of_defined (dbufDefined_memSet hdef _ _))
  · show Seq.run l (.finish (judgeCode _ _ _)) = _
    rw [judgeCode, if_neg hinvalid]

/-- Settles O19: the table form for every byte, and each listed entry by its eight iterations. -/
theorem crcTableFormAgrees : Obligations.CrcTableFormAgrees :=
  ⟨crcUpdate_eq_crcTable, by decide, by decide, by decide, by decide, by decide, by decide, by decide, by decide,
    by decide, by decide, by decide⟩

/-- Settles O22: the digest is one to one in each byte. -/
theorem crcDetectsOneChangedByte : Obligations.CrcDetectsOneChangedByte :=
  fun pre post _ _ hne h => hne (crc32_injective_byte pre post h)

/-- Settles O25: decode and check, the bytes of the range, and `finish`. -/
theorem crcBufFeedsItsRange : Obligations.CrcBufFeedsItsRange := by
  intro s l hs hd hraced hbound hdef
  have hmoves : seqMoves (l.n.toNat + 3) = seqMoves 2 ++ (seqMoves l.n.toNat ++ seqMoves 1) := by
    simp only [seqMoves, List.replicate_append_replicate]
    congr 1
    omega
  set bytes := dbufBytes s.dbuf l.b.toNat l.n.toNat
  calc play (seqMoves (l.n.toNat + 3)) s
      = play (seqMoves l.n.toNat ++ seqMoves 1) (enter l (feedPhase l 0) s) := by
        rw [hmoves, play_decode_check hs hd rfl (planCrcBuf_eq hbound)]
    _ = play (seqMoves 1) (enter l (.finish .ok) (fed bytes s)) :=
        play_feed hd _ _ (Nat.zero_add _) ((dbufDefined_iff ..).1 hdef)
    _ = .next (finish .ok (enter l (.finish .ok) (fed bytes s))) := play_finish (enter_seq ..) hd hraced
    _ = _ := by
        rw [finish_of_raced_nil (s := enter l (.finish .ok) (fed bytes s)) hraced]
        rfl

/-- Settles O26: the run of a validation, with the record's magic and no version. -/
theorem validateRecordJudgesTheImage : Obligations.ValidateRecordJudgesTheImage := by
  intro s l hs hd hraced hbound hdef
  have hplan : planOf s.cfg .validateRecord l = .judge .record :=
    if_neg (by simp [dbufOffset, pastDbuf_eq_false hbound])
  rw [play_validation hs hd rfl hplan hraced hdef, finish_of_raced_nil (s := judged l .record s) hraced,
    judgeCode_record]
  rfl

/-- Settles O27: the run of a validation, with the header's magic and version. -/
theorem validateHeaderJudgesTheImage : Obligations.ValidateHeaderJudgesTheImage := by
  intro s l hs hd hraced hbound hdef
  have hplan : planOf s.cfg .validateHeader l = .judge .header :=
    if_neg (by simp [dbufOffset, pastDbuf_eq_false hbound])
  rw [play_validation hs hd rfl hplan hraced hdef, finish_of_raced_nil (s := judged l .header s) hraced,
    judgeCode_header]
  rfl

/-- Settles O28: both validations take `judgeStep` on their image. -/
theorem validationMicroStep : Obligations.ValidationMicroStep := by
  intro s l p hp hs
  have hexec : exec p.1 s = judgeStep l p.2 s := exec_run p.1 hs
  rw [hexec]
  refine ⟨fun hdef => judgeStep_of_defined hdef, judgeStep_of_undefined, imageVersionOk_iff, ?_⟩
  rw [imageValid_iff]
  simp only [List.mem_cons, List.not_mem_nil, or_false] at hp
  rcases hp with rfl | rfl <;> exact Iff.rfl

/-- Settles O13: the write and the read are those of the register CRC_DATA. -/
theorem crcDataFeedsOneByte : Obligations.CrcDataFeedsOneByte := by
  intro s v h
  exact ⟨hostStep_write_reg h .crcData v, hostStep_read_reg h .crcData⟩

/-- Settles O20, by running the loop. -/
theorem crcCheckValue : Obligations.CrcCheckValue := ⟨by decide, by decide +kernel⟩

/-- Settles O23: decode leads to the update, and the update to `finish(OK)`, where CRC_INIT has no race to settle. -/
theorem crcInitSetsTheSeed : Obligations.CrcInitSetsTheSeed := by
  intro s l
  refine ⟨fun hs => exec_run .crcInit hs, fun hs hd => ?_⟩
  calc play (seqMoves 3) s
      = play (seqMoves 2) (enter l .seed s) := play_sequencer hs hd rfl _
    _ = play (seqMoves 1) (seedStep l s) := play_sequencer (enter_seq ..) hd rfl _
    _ = .next (finish .ok (seedStep l s)) := play_finish_of_settleOf rfl hd rfl

/-- Settles O24: a byte that is defined is fed, and one that is not stops the machine. -/
theorem crcBufFeedsByte : Obligations.CrcBufFeedsByte := by
  intro s l i hs hi
  rw [exec_run .crcBuf hs]
  exact ⟨fun v hv => feedStep_of_defined hi hv, feedStep_of_undefined hi⟩

end Sys2Proof.Proofs
end

section
/-! PROOFS. The statements on the ways a command fails: the model fault on an undefined DBUF byte, and the parameter
checks that end in ERR_PARAM. -/

namespace Sys2Proof.Machine

open Sys2Proof.Safety

/-! ### The model fault (60_exceptions.md R140) -/

theorem frameStep_fault {l : Latch} {tmo : Budget} {op : MutOp} {rest : List MutOp} {s : State} {f : Fault}
    (h : frameStep l tmo op rest s = .fault f) :
    f = .uninitDbufRead ∧ ∃ c, op = .program c ∧ dbufDefined s.dbuf c.boff c.len = false := by
  cases op with
  | program c =>
    unfold frameStep at h
    dsimp only at h
    split at h
    · cases h
    · next hundef =>
      cases h
      exact ⟨rfl, c, rfl, Bool.eq_false_of_not_eq_true hundef⟩
  | erase u base => cases h

theorem feedStep_fault {l : Latch} {k : Nat} {s : State} {f : Fault} (h : feedStep l k s = .fault f) :
    f = .uninitDbufRead ∧ k < byteCount l ∧ memGet s.dbuf (dbufOffset l + k) = none := by
  unfold feedStep at h
  split at h
  · next hk =>
    split at h
    · next hundef =>
      cases h
      exact ⟨rfl, hk, hundef⟩
    · cases h
  · cases h

theorem judgeStep_fault {l : Latch} {img : Image} {s : State} {f : Fault} (h : judgeStep l img s = .fault f) :
    f = .uninitDbufRead ∧ dbufDefined s.dbuf (dbufOffset l) (imageSize img) = false := by
  unfold judgeStep at h
  split at h
  · cases h
  · next hundef =>
    cases h
    exact ⟨rfl, Bool.eq_false_of_not_eq_true hundef⟩

/-! ### The parameter checks (40_flash_controller.md R101) -/

theorem pastDbuf_iff {cfg : Config} {b n : Nat} : pastDbuf cfg b n = true ↔ cfg.dbufSize < b + n := decide_eq_true_iff

theorem pastFlash_iff {a n : Nat} : pastFlash a n = true ↔ Config.flashSize < a + n := decide_eq_true_iff

theorem outsideFlash_iff {a : Nat} : outsideFlash a = true ↔ Config.flashSize ≤ a := decide_eq_true_iff

theorem crossesPage_iff {a n : Nat} : crossesPage a n = true ↔ Config.pageSize < a % Config.pageSize + n :=
  decide_eq_true_iff

/-- One of the bounds of a command's check fails (60_exceptions.md R134). -/
def BoundFails (cfg : Config) (l : Latch) : Instr → Prop
  | .read | .write => cfg.dbufSize < l.b.toNat + l.n.toNat ∨ Config.flashSize < l.a.toNat + l.n.toNat
  | .progPage => cfg.dbufSize < l.b.toNat + l.n.toNat ∨ Config.flashSize < l.a.toNat + l.n.toNat ∨
      Config.pageSize < l.a.toNat % Config.pageSize + l.n.toNat
  | .eraseSector | .eraseBlock => Config.flashSize ≤ l.a.toNat
  | .crcBuf => cfg.dbufSize < l.b.toNat + l.n.toNat
  | .validateRecord => cfg.dbufSize < l.b.toNat + Config.recordSize
  | .validateHeader => cfg.dbufSize < l.b.toNat + Config.headerSize
  | .nop | .eraseChip | .readId | .crcInit => False

/-- One bound of a check: the check leads to ERR_PARAM when it fails, or when the rest of the check does. -/
theorem bound_errParam_iff {P : Prop} [Decidable P] {q : Phase} :
    (if P then .finish .errParam else q) = Phase.finish .errParam ↔ P ∨ q = .finish .errParam :=
  ite_eq_left_iff.trans or_iff_not_imp_left.symm

/-- The last bound of a check, after which nothing leads to ERR_PARAM. -/
theorem lastBound_errParam_iff {P : Prop} [Decidable P] {q : Phase} (hq : q ≠ .finish .errParam) :
    (if P then .finish .errParam else q) = Phase.finish .errParam ↔ P :=
  bound_errParam_iff.trans (or_iff_left hq)

/-- The zero-length test, which comes after the bounds (40_flash_controller.md R106). -/
theorem zeroLength_ne_errParam {n : Nat} {q : Phase} (hq : q ≠ .finish .errParam) :
    (if n = 0 then .finish .ok else q) ≠ Phase.finish .errParam := by
  split
  · exact nofun
  · exact hq

/-- A check leads to ERR_PARAM exactly when one of its bounds fails. -/
theorem planOf_errParam_iff {cfg : Config} {l : Latch} {i : Instr} :
    planOf cfg i l = .finish .errParam ↔ BoundFails cfg l i := by
  cases i with
  | nop | eraseChip | readId | crcInit => exact ⟨nofun, False.elim⟩
  | read | write =>
    refine bound_errParam_iff.trans (or_congr pastDbuf_iff ((lastBound_errParam_iff ?_).trans pastFlash_iff))
    exact zeroLength_ne_errParam nofun
  | progPage =>
    refine bound_errParam_iff.trans (or_congr pastDbuf_iff (bound_errParam_iff.trans (or_congr pastFlash_iff
      ((lastBound_errParam_iff ?_).trans crossesPage_iff))))
    exact zeroLength_ne_errParam nofun
  | eraseSector | eraseBlock =>
    refine (lastBound_errParam_iff ?_).trans outsideFlash_iff
    exact nofun
  | crcBuf =>
    refine (lastBound_errParam_iff ?_).trans pastDbuf_iff
    exact zeroLength_ne_errParam nofun
  | validateRecord | validateHeader =>
    refine (lastBound_errParam_iff ?_).trans pastDbuf_iff
    exact nofun

/-- A command with a bound that can fail has a check, and decode leads to it. -/
theorem firstOf_of_boundFails {cfg : Config} {l : Latch} {i : Instr} (h : BoundFails cfg l i) :
    firstOf cfg i l = .check := by
  cases i with
  | nop | eraseChip | readId | crcInit => exact h.elim
  | _ => rfl

end Sys2Proof.Machine

namespace Sys2Proof.Proofs

open Sys2Proof.Machine Sys2Proof.Safety

/-- Settles O31: the check's bounds are those of R134, and a check that ends a command ends its run. -/
theorem parameterChecksAreExact : Obligations.ParameterChecksAreExact := by
  intro i s l bad hsize hbad
  have hbound : BoundFails s.cfg l i ↔ bad := by
    rw [hbad]
    cases i <;> simp only [BoundFails, hsize]
  refine ⟨fun hs => ⟨planOf s.cfg i l, exec_run i hs, planOf_errParam_iff.trans hbound⟩, fun hs hd hraced h => ?_⟩
  have hfails : BoundFails s.cfg l i := hbound.2 h
  rw [play_ended_by_check hs hd (firstOf_of_boundFails hfails) (planOf_errParam_iff.2 hfails) hraced,
    finish_of_raced_nil hraced]

/-- Settles O7: of the micro-steps, those that consume DBUF bytes have a fault, and each on an undefined byte only. -/
theorem commandsFaultOnlyOnUndefinedBytes : Obligations.CommandsFaultOnlyOnUndefinedBytes := by
  intro i s f h
  cases hs : s.seq with
  | idle =>
    rw [exec_idle i hs] at h
    cases h
  | run l p =>
    rw [exec_run i hs] at h
    cases p with
    | frame tmo op rest =>
      obtain ⟨hf, c, rfl, hundef⟩ := frameStep_fault h
      exact ⟨hf, l, _, rfl, .inl ⟨tmo, c, rest, rfl, hundef⟩⟩
    | feed k =>
      obtain ⟨hf, hk, hundef⟩ := feedStep_fault h
      exact ⟨hf, l, _, rfl, .inr (.inl ⟨k, rfl, hk, hundef⟩)⟩
    | judge img =>
      obtain ⟨hf, hundef⟩ := judgeStep_fault h
      exact ⟨hf, l, _, rfl, .inr (.inr ⟨img, rfl, hundef⟩)⟩
    | _ => cases h

end Sys2Proof.Proofs
end

section
/-! PROOFS. The statements on races and on the launch state: what a host access in a running command's range does, what
a recorded race makes of the results, and that a launch state meets the invariant. -/

namespace Sys2Proof.Machine

open Sys2Proof.Safety

/-! ### Host writes that race (70_reset_and_hazards.md R163) -/

/-- A value is its low half, and then its high half (20_memory.md R56). -/
theorem valueBytes_halves (v : Word) {w u : Width} (h : widthBytes w = widthBytes u + widthBytes u) :
    valueBytes v w = valueBytes v u ++ valueBytes (v >>> (8 * widthBytes u)) u := by
  simp only [valueBytes, h, List.range_add, List.map_append, List.map_map]
  congr 1
  exact List.map_congr_left fun k _ => (byteOf_ushiftRight v _ k).symm

/-- An aligned write is the write of its low half, and then of its high half. -/
theorem hostStep_write_halves {s : State} (h : statedSizes s.cfg = true) {x : Nat} {w u : Width} (v : Word)
    (hw : widthBytes w = widthBytes u + widthBytes u) (haligned : x % widthBytes w = 0)
    (hle : x + widthBytes w ≤ 4096) :
    ∃ t, hostStep (.write (0x1000 + x) u v) s = .next t ∧ hostStep (.write (0x1000 + x) w v) s =
      hostStep (.write (0x1000 + x + widthBytes u) u (v >>> (8 * widthBytes u))) t := by
  have hpos : 0 < widthBytes u := by cases u <;> decide
  have hlow : x % widthBytes u = 0 := by
    rw [hw, ← Nat.two_mul] at haligned
    exact Nat.mod_eq_zero_of_dvd ((Nat.dvd_mul_left _ 2).trans (Nat.dvd_of_mod_eq_zero haligned))
  have hcfg : (hostStore x (valueBytes v u) s).cfg = s.cfg := by rw [hostStore_frame]
  refine ⟨_, hostStep_write_dbuf h v (by omega) hlow, ?_⟩
  rw [hostStep_write_dbuf h v (by omega) haligned, Nat.add_assoc,
    hostStep_write_dbuf (hcfg ▸ h) _ (by omega) (by rw [Nat.add_mod_right, hlow]), valueBytes_halves v hw,
    hostStore_append, valueBytes_length]

/-- DBUF byte `x` takes the low byte of a written value. -/
def storeByte (x : Nat) (v : Word) (s : State) : State := { s with dbuf := memSet s.dbuf x (byteOf v 0) }

/-- A byte write stores one byte, which may race. -/
theorem hostStore_valueBytes_byte (x : Nat) (v : Word) (s : State) :
    hostStore x (valueBytes v .byte) s = raceWrite x (storeByte x v s) := rfl

/-- A racing byte is recorded once. -/
def recordRace (x : Nat) (s : State) : State :=
  { s with raced := if s.raced.contains x then s.raced else x :: s.raced }

theorem raceWrite_of_inBusyRange {s : State} {x : Nat} (h : inBusyRange s x = true) :
    raceWrite x s = redrawIssued x (recordRace x s) := if_pos h

/-- A byte that does not race, or that no program frame has carried, makes no draw in the host's step. -/
theorem raceWrite_draws_nothing {s : State} {x : Nat}
    (h : inBusyRange s x = false ∨ programLatch s = none ∨ s.issued = none ∨
      ∃ c, s.issued = some c ∧ c.boff + c.len ≤ x) :
    (raceWrite x s).dev = s.dev ∧ (raceWrite x s).draws = s.draws := by
  cases hrange : inBusyRange s x with
  | false =>
    have hkept : raceWrite x s = s := if_neg (by simp [hrange])
    rw [hkept]
    exact ⟨rfl, rfl⟩
  | true =>
    have hsent := h.resolve_left (by simp [hrange])
    rw [raceWrite_of_inBusyRange hrange, redrawIssued_of_not_sent (s := recordRace x s) hsent]
    exact ⟨rfl, rfl⟩

/-- A racing byte that a program frame has carried takes its draw in the host's step. -/
theorem raceWrite_of_sent {s : State} {x : Nat} {l : Latch} {c : Chunk} (hrange : inBusyRange s x = true)
    (hl : programLatch s = some l) (hc : s.issued = some c) (hx : x < c.boff + c.len) :
    raceWrite x s = redrawProgram l c x (recordRace x s) := by
  rw [raceWrite_of_inBusyRange hrange, redrawIssued_of_sent (s := recordRace x s) hl hc hx]

/-- The draw of a byte that a program frame has carried: in the pending program's data, or in the array. -/
theorem redrawProgram_effect (l : Latch) (c : Chunk) (x : Nat) (s : State) :
    (redrawProgram l c x s).draws = s.draws + 1 ∧
    (∀ a d, s.dev.pending = some (.program a d) → c.boff ≤ x → (redrawProgram l c x s).dev =
      { s.dev with pending := some (.program a (d.set (x - c.boff) (Config.freeByte s.draws))) }) ∧
    (((∀ a d, s.dev.pending ≠ some (.program a d)) ∨ x < c.boff) →
      (redrawProgram l c x s).dev = { s.dev with flash := (redrawProgram l c x s).dev.flash } ∧
      ∀ y, flashRead (redrawProgram l c x s).dev.flash y =
        if y = (l.a.toNat + (x - l.b.toNat)) % 2097152 then Config.freeByte s.draws
        else flashRead s.dev.flash y) := by
  refine ⟨?_, fun a d hp hx => by rw [redrawProgram_of_pending hp hx], fun h => ?_⟩
  · by_cases hp : (∃ a d, s.dev.pending = some (.program a d)) ∧ c.boff ≤ x
    · obtain ⟨⟨a, d, hp⟩, hx⟩ := hp
      rw [redrawProgram_of_pending hp hx]
    · rw [redrawProgram_of_completed]
      · rfl
      · rw [not_and_or, not_le] at hp
        exact hp.imp_left fun hp a d h => hp ⟨a, d, h⟩
  · rw [redrawProgram_of_completed h]
    refine ⟨rfl, fun y => ?_⟩
    rw [flashRead_redrawFlash]
    exact if_congr eq_comm rfl rfl

/-! ### Host reads that race (70_reset_and_hazards.md R163) -/

/-- The byte a host read sees as byte `k`: a draw in the destination of a running READ, else the byte held. -/
def racedByte (s : State) (i k : Nat) : Byte :=
  if inReadDestination s (i + k) = true then Config.freeByte (s.draws + k) else dbufByte s.dbuf (i + k)

theorem hostByte_getD (s : State) (i k : Nat) : (hostByte s (i + k) k).getD 0 = racedByte s i k := by
  unfold hostByte racedByte
  split <;> rfl

/-- The value of a host read that meets the destination of a running READ. -/
def racedWord (s : State) (i n : Nat) : Word := leWord ((List.range n).map (racedByte s i))

theorem racedWord_byte (s : State) (i : Nat) {n k : Nat} (hn : n ≤ 4) (hk : k < n) :
    (racedWord s i n).extractLsb' (8 * k) 8 = racedByte s i k := by
  rw [racedWord, leWord_extractLsb' _ (by simpa using hn) k (by simpa using hk)]
  simp

theorem racedWord_lt (s : State) (i : Nat) {n : Nat} (hn : n ≤ 4) : (racedWord s i n).toNat < 2 ^ (8 * n) := by
  simpa [racedWord] using leWord_toNat_lt ((List.range n).map (racedByte s i)) (by simpa using hn)

/-- A read that meets the destination of a running READ takes one draw for each byte of the access (log 3). -/
theorem hostStep_read_of_destination {off i : Nat} {w : Width} {s : State} (h : regionAt s.cfg off w = .dbuf i)
    (hmeets : ∃ k < widthBytes w, inReadDestination s (i + k) = true)
    (hdef : ∀ k < widthBytes w, inReadDestination s (i + k) = false → memGet s.dbuf (i + k) ≠ none) :
    hostStep (.read off w) s = .next { s with
      readLog := racedWord s i (widthBytes w) :: s.readLog, draws := s.draws + widthBytes w } := by
  have hall : (hostBytes s i (widthBytes w)).all Option.isSome = true :=
    hostBytes_all_isSome_iff.2 fun ⟨k, hk, hout, hnone⟩ => hdef k hk hout hnone
  have hdraws : hostReadDraws s i (widthBytes w) = widthBytes w :=
    if_pos (by simpa only [List.any_eq_true, List.mem_range] using hmeets)
  have hvalue : (hostBytes s i (widthBytes w)).map (Option.getD · 0) =
      (List.range (widthBytes w)).map (racedByte s i) := by
    rw [hostBytes, List.map_map]
    exact List.map_congr_left fun k _ => hostByte_getD s i k
  show hostRead off w s = _
  unfold hostRead
  rw [h]
  dsimp only
  rw [if_pos hall, hdraws, hvalue]
  rfl

/-! ### Races settled at `finish` (70_reset_and_hazards.md R163) -/

theorem memGet_foldl_memSet_of_not_mem (ps : List (Nat × Byte)) (m : Memory) {x : Nat} (h : x ∉ ps.map Prod.fst) :
    memGet (ps.foldl (fun m p => memSet m p.1 p.2) m) x = memGet m x := by
  induction ps generalizing m with
  | nil => rfl
  | cons p ps ih =>
    rw [List.map_cons, List.mem_cons, not_or] at h
    rw [List.foldl_cons, ih _ h.2, memGet_memSet_ne _ _ (Ne.symm h.1)]

/-- Stores at distinct indices leave each index its own byte. -/
theorem memGet_foldl_memSet_of_mem (ps : List (Nat × Byte)) (hn : (ps.map Prod.fst).Nodup) (m : Memory)
    {p : Nat × Byte} (hp : p ∈ ps) :
    memGet (ps.foldl (fun m p => memSet m p.1 p.2) m) p.1 = some p.2 := by
  induction ps generalizing m with
  | nil => cases hp
  | cons q ps ih =>
    rw [List.map_cons, List.nodup_cons] at hn
    rw [List.foldl_cons]
    rcases List.mem_cons.1 hp with rfl | hp
    · rw [memGet_foldl_memSet_of_not_mem ps _ hn.1, memGet_memSet_same]
    · exact ih hn.2 _ hp

/-- The raced bytes of a READ with the draws they hold after `finish`. -/
def raceDraws (s : State) : List (Nat × Byte) := s.raced.zip (freeBytes s.draws s.raced.length)

theorem raceDraws_indices (s : State) : (raceDraws s).map Prod.fst = s.raced :=
  List.map_fst_zip (by simp)

theorem raceDraws_mem (s : State) {k : Nat} (hk : k < s.raced.length) :
    (s.raced[k], Config.freeByte (s.draws + k)) ∈ raceDraws s := by
  have hlen : k < (raceDraws s).length := by simpa [raceDraws] using hk
  have hget : (raceDraws s)[k] = (s.raced[k], Config.freeByte (s.draws + k)) := by simp [raceDraws]
  exact hget ▸ List.getElem_mem hlen

/-- After `finish` each raced byte of a READ's destination holds its draw, and every other byte is as before. -/
theorem memGet_settleRead (c : Code) (s : State) :
    (s.raced.Nodup → ∀ k (h : k < s.raced.length),
      memGet (settleRead c s).2.dbuf s.raced[k] = some (Config.freeByte (s.draws + k))) ∧
    ∀ x, x ∉ s.raced → memGet (settleRead c s).2.dbuf x = memGet s.dbuf x := by
  refine ⟨fun hn k hk => ?_, fun x hx => ?_⟩
  · exact memGet_foldl_memSet_of_mem (raceDraws s) (raceDraws_indices s ▸ hn) s.dbuf (raceDraws_mem s hk)
  · exact memGet_foldl_memSet_of_not_mem (raceDraws s) s.dbuf (raceDraws_indices s ▸ hx)

section
variable {s : State}

theorem isEmpty_of_raced (h : s.raced ≠ []) : ¬ s.raced.isEmpty = true := by simpa using h

theorem settleCrc_of_raced (h : s.raced ≠ []) (c : Code) :
    settleCrc c s = (c, bump 1 { s with crcState := Config.freeWord s.draws }) := if_neg (isEmpty_of_raced h)

theorem settleValidate_of_raced (h : s.raced ≠ []) (c : Code) : settleValidate c s =
    (if c = .errParam then .errParam else if Config.freeBool (s.draws + 5) then .ok else .errCrc,
      bump 6 { s with
        valCalc := Config.freeWord s.draws
        valStored := Config.freeWord (s.draws + 1)
        status := statusValidated (Config.freeBool (s.draws + 2)) (Config.freeBool (s.draws + 3))
          (Config.freeBool (s.draws + 4)) s.status }) := if_neg (isEmpty_of_raced h)

/-- The program frame of a raced chunk draws its raced bytes before the transaction makes its own draws (log 3). -/
theorem frameStep_program_raced {l : Latch} {tmo : Budget} {c : Chunk} {rest : List MutOp} (h : s.raced ≠ [])
    (hdef : dbufDefined s.dbuf c.boff c.len = true) :
    frameStep l tmo (.program c) rest s = .next (sendMutation l tmo
      (.pageProgram (BitVec.ofNat 32 c.addr) (chunkData c s)) (some c) rest (bump c.len s)) := by
  rw [frameStep, if_pos hdef, if_neg (isEmpty_of_raced h)]

end

theorem chunkData_getElem? (c : Chunk) (s : State) {k : Nat} (hk : k < c.len) : (chunkData c s)[k]? =
    some (if c.boff + k ∈ s.raced then Config.freeByte (s.draws + k) else dbufByte s.dbuf (c.boff + k)) := by
  simp [chunkData, hk]

/-- A program frame inside the array asks for the program of its data. -/
theorem frameOp_pageProgram {cfg : Config} (h : configWellFormed cfg = true) {a : Nat} (ha : a < Config.flashSize)
    (data : List Byte) : frameOp cfg (.pageProgram (BitVec.ofNat 32 a) data) = some (.program a data) := by
  rw [frameOp, arrayAddr_sentAddr_ofNat h ha]

end Sys2Proof.Machine

namespace Sys2Proof.Proofs

open Sys2Proof.Machine Sys2Proof.Safety

/-- Settles O49: a write is a store of its bytes, the store of a byte is one race, and a read sees a draw in the
destination of a running READ. -/
theorem hostAccessesRaceInTheRange : Obligations.HostAccessesRaceInTheRange := by
  intro s x w v h haligned hle
  have hpos : 0 < widthBytes w := by cases w <;> decide
  have hfour : widthBytes w ≤ 4 := by cases w <;> decide
  have hwrite := hostStep_write_dbuf h v (by omega) haligned
  refine ⟨⟨_, hwrite, ?frame, ?raced, ?inside, ?outside⟩, ?halfWrite, ?wordWrite, ?byteWrite,
    fun hmeets hdef => ?read⟩
  case frame =>
    rw [hostStore_frame]
  case raced =>
    intro y
    rw [mem_hostStore_raced, valueBytes_length]
    refine or_congr_right ⟨fun ⟨hy, hrange⟩ => ⟨y - x, by omega, by omega, hrange⟩, ?_⟩
    rintro ⟨k, hk, rfl, hrange⟩
    exact ⟨by omega, hrange⟩
  case inside =>
    intro k hk
    rw [hostStore_frame]
    exact memGet_dbufStore_valueBytes s.dbuf x v hk
  case outside =>
    intro y hy
    rw [hostStore_frame]
    exact (memGet_dbufStore _ _ _ _).trans (dif_neg (by rw [valueBytes_length]; omega))
  case halfWrite =>
    rintro rfl
    exact hostStep_write_halves h v (u := .byte) rfl haligned hle
  case wordWrite =>
    rintro rfl
    exact hostStep_write_halves h v (u := .half) rfl haligned hle
  case byteWrite =>
    rintro rfl t ht
    rw [hwrite, hostStore_valueBytes_byte] at ht
    cases ht
    refine ⟨raceWrite_draws_nothing (s := storeByte x v s), fun l c hrange hl hc hx => ?_⟩
    rw [raceWrite_of_sent (s := storeByte x v s) hrange hl hc hx]
    exact redrawProgram_effect l c x (recordRace x (storeByte x v s))
  case read =>
    have hregion := regionAt_dbuf h (by omega) haligned
    exact ⟨_, hostStep_read_of_destination hregion hmeets hdef, racedWord_lt s x hfour,
      fun k hk => racedWord_byte s x hfour hk⟩

/-- Settles O50: the races settled at `finish` by command, and the transaction of a raced chunk's frame. -/
theorem racedResultsAreDraws : Obligations.RacedResultsAreDraws := by
  intro s l hraced
  refine ⟨fun c hs => ⟨?crc, fun i hi => ?validation, fun hnodup => ?read⟩, ?frame, fun ch =>
    ⟨chunkData_length ch s, fun k hk => chunkData_getElem? ch s hk⟩⟩
  case crc =>
    rw [exec_run .crcBuf hs, microStep, settleOf, settleCrc_of_raced hraced]
    rfl
  case validation =>
    have hsettle : settleOf i = settleValidate := by
      simp only [List.mem_cons, List.not_mem_nil, or_false] at hi
      rcases hi with rfl | rfl <;> rfl
    rw [exec_run i hs, microStep, hsettle, settleValidate_of_raced hraced]
    exact ⟨_, rfl, rfl, rfl, rfl, rfl, rfl, rfl⟩
  case read =>
    obtain ⟨hdraws, hkept⟩ := memGet_settleRead c s
    exact ⟨_, exec_run .read hs, rfl, hdraws hnodup, hkept⟩
  case frame =>
    intro tmo ch rest i _ hcfg hready hwel haddr hs hdef
    obtain ⟨hfitted, hidle⟩ := hready
    rw [exec_run i hs, microStep, frameStep_program_raced hraced hdef, sendMutation_idle (s := bump ch.len s) hfitted
      hidle hwel (frameOp_pageProgram hcfg haddr _), opRange, chunkData_length]
    rfl

/-- Settles O54: an Idle state with nothing pending and no race has only its memories and its configuration to
check, and the launch states them well formed (70_reset_and_hazards.md R160). -/
theorem launchStateMeetsInvariant : Obligations.LaunchStateMeetsInvariant := by
  intro p s hlaunch hjedec hraced
  obtain ⟨⟨hseq, hstatus, hbusy⟩, hpending, -, hdbuf, hflash, hcfg, hflashWf, hdbufWf, hcfgWf⟩ := hlaunch
  have hidle : s.status.busy = false := hstatus ▸ hbusy
  exact {
    cfg_ok := hcfg ▸ hcfgWf
    flash_wf := hflash ▸ hflashWf
    dbuf_wf := hcfg ▸ hdbuf ▸ hdbufWf
    busy_iff := by simp [hidle, hseq]
    busy_clear := by simp [hidle]
    jedec_reserved := hjedec
    latch_eq := by simp [hseq]
    phase_ok := by simp [hseq]
    pending_ok := by simp [hpending]
    raced_ok := by simp [hraced] }

end Sys2Proof.Proofs
end

section
/-! PROOFS. The statement on progress: under the default schedule every command finishes. A completion step ends the
pending operation, every micro-step on a device with nothing pending brings the command nearer to its `finish`, and no
micro-step meets an undefined byte, for the check keeps every byte that a command consumes inside DBUF. -/

namespace Sys2Proof.Machine

open Sys2Proof.Safety

/-! ### The bytes a command consumes lie inside DBUF (40_flash_controller.md R101) -/

/-- The DBUF bytes that a micro-program with this check outcome consumes lie inside DBUF. -/
def ReadsInside (cfg : Config) (l : Latch) : Phase → Prop
  | .prePoll _ (.mutate ops) => ∀ c, .program c ∈ ops → c.boff + c.len ≤ cfg.dbufSize
  | .feed _ => dbufOffset l + byteCount l ≤ cfg.dbufSize
  | .judge img => dbufOffset l + imageSize img ≤ cfg.dbufSize
  | _ => True

/-- A test of the check that ends the command, or lets the rest of the check decide. -/
theorem readsInside_ite {cfg : Config} {l : Latch} {P : Prop} [Decidable P] {c : Code} {q : Phase}
    (h : ¬ P → ReadsInside cfg l q) : ReadsInside cfg l (if P then .finish c else q) := by
  split
  · trivial
  · next hP => exact h hP

theorem le_of_not_pastDbuf {cfg : Config} {b n : Nat} (h : ¬ pastDbuf cfg b n = true) : b + n ≤ cfg.dbufSize :=
  Nat.le_of_not_lt (mt pastDbuf_iff.2 h)

/-- Every chunk of a range reads inside that range (40_flash_controller.md R110). -/
theorem chunks_boff_le {a b n : Nat} {c : Chunk} (h : c ∈ chunks a b n) : c.boff + c.len ≤ b + n := by
  have hsplit := chunks_pageSplit a b n
  obtain ⟨hlen, -, -⟩ := hsplit.bounds c h
  have hlast : c.boff + (c.len - 1) ∈ List.range' b n := by
    rw [← hsplit.dbuf_cover]
    exact List.mem_flatMap.2 ⟨c, h, List.mem_range'_1.2 ⟨by omega, by omega⟩⟩
  have := List.mem_range'_1.1 hlast
  omega

theorem readsInside_erase (cfg : Config) (l : Latch) (tmo : Budget) (u : EraseUnit) (base : Nat) :
    ReadsInside cfg l (.prePoll tmo (.mutate [.erase u base])) :=
  fun _ hc => nomatch List.mem_singleton.1 hc

theorem planOf_readsInside (cfg : Config) (i : Instr) (l : Latch) : ReadsInside cfg l (planOf cfg i l) := by
  cases i with
  | nop | readId | crcInit => trivial
  | eraseChip => exact readsInside_erase cfg l _ _ _
  | eraseSector | eraseBlock => exact readsInside_ite fun _ => readsInside_erase cfg l _ _ _
  | read => exact readsInside_ite fun _ => readsInside_ite fun _ => readsInside_ite fun _ => trivial
  | progPage =>
    refine readsInside_ite fun hdbuf => readsInside_ite fun _ => readsInside_ite fun _ =>
      readsInside_ite fun _ c hc => ?_
    cases List.mem_singleton.1 hc
    exact le_of_not_pastDbuf hdbuf
  | write =>
    refine readsInside_ite fun hdbuf => readsInside_ite fun _ => readsInside_ite fun _ c hc => ?_
    obtain ⟨d, hd, hdc⟩ := List.mem_map.1 hc
    cases hdc
    exact (chunks_boff_le hd).trans (le_of_not_pastDbuf hdbuf)
  | crcBuf => exact readsInside_ite fun hdbuf => readsInside_ite fun _ => le_of_not_pastDbuf hdbuf
  | validateRecord | validateHeader => exact readsInside_ite fun hdbuf => le_of_not_pastDbuf hdbuf

theorem planOfWord_readsInside (cfg : Config) (l : Latch) : ReadsInside cfg l (planOfWord cfg l) := by
  cases h : decode l.opw with
  | ok i => exact planOfWord_ok h ▸ planOf_readsInside cfg i l
  | error e =>
    rw [planOfWord_error h]
    trivial

/-- A range inside a defined DBUF is defined. -/
theorem dbufDefined_mono {m : Memory} {b n size : Nat} (h : dbufDefined m 0 size = true) (hle : b + n ≤ size) :
    dbufDefined m b n = true := by
  rw [dbufDefined_iff] at h ⊢
  intro i hi
  simpa using h (b + i) (by omega)

/-- With every byte of DBUF defined, no micro-step of a micro-program faults (60_exceptions.md R140). -/
theorem microStep_next_of_defined {s : State} {l : Latch} {p : Phase} (i : Instr) (h : Inv s) (hs : s.seq = .run l p)
    (hdef : dbufDefined s.dbuf 0 s.cfg.dbufSize = true) : ∃ t, microStep i l p s = .next t := by
  have hp := h.phase_ok l p hs
  have hreads := planOfWord_readsInside s.cfg l
  cases hm : microStep i l p s with
  | next t => exact ⟨t, rfl⟩
  | refused r => exact absurd hm (microStep_ne_refused i l p s r)
  | fault f =>
    exfalso
    cases p with
    | frame tmo op rest =>
      obtain ⟨-, c, rfl, hundef⟩ := frameStep_fault hm
      obtain ⟨ops, hword, hsuffix⟩ := hp
      rw [hword] at hreads
      have hle : c.boff + c.len ≤ s.cfg.dbufSize := hreads c (hsuffix.mem List.mem_cons_self)
      simp [dbufDefined_mono hdef hle] at hundef
    | feed k =>
      obtain ⟨-, hk, hundef⟩ := feedStep_fault hm
      obtain ⟨hword, -⟩ := hp
      rw [hword] at hreads
      obtain ⟨v, hv⟩ := (dbufDefined_iff _ _ _).1 (dbufDefined_mono hdef hreads) k hk
      simp [hv] at hundef
    | judge img =>
      obtain ⟨-, hundef⟩ := judgeStep_fault hm
      have hword : planOfWord s.cfg l = .judge img := hp
      rw [hword] at hreads
      simp [dbufDefined_mono hdef hreads] at hundef
    | _ => cases hm

/-! ### The micro-steps left to a command (40_flash_controller.md R99) -/

/-- A bound on the micro-steps left after the check, on a device that is ready at every poll: three for each `Mutate`,
and one for each byte of a CRC_BUF. -/
def programSteps (l : Latch) : Phase → Nat
  | .decode | .check => 0
  | .finish _ => 1
  | .seed | .judge _ | .identify | .deposit _ _ _ => 2
  | .feed k => byteCount l - k + 2
  | .receive _ _ _ | .prePoll _ .identify => 3
  | .prePoll _ (.receive _ _ _) => 4
  | .prePoll _ (.mutate ops) => 3 * ops.length + 2
  | .postPoll _ rest => 3 * rest.length + 2
  | .writeEnable _ _ rest => 3 * rest.length + 4
  | .frame _ _ rest => 3 * rest.length + 3

/-- A bound on the micro-steps left to a command: before the check, those of the micro-program that the check starts. -/
def commandSteps (cfg : Config) (l : Latch) : Phase → Nat
  | .decode => programSteps l (planOfWord cfg l) + 3
  | .check => programSteps l (planOfWord cfg l) + 2
  | p => programSteps l p

/-- A bound on the micro-steps left to the sequencer. -/
def seqSteps (cfg : Config) : Seq → Nat
  | .idle => 0
  | .run l p => commandSteps cfg l p

theorem commandSteps_planOfWord (cfg : Config) (l : Latch) :
    commandSteps cfg l (planOfWord cfg l) = programSteps l (planOfWord cfg l) := by
  obtain ⟨i, h⟩ := planOfWord_outcome cfg l
  generalize planOfWord cfg l = plan at h
  cases h <;> rfl

/-- `finish` is the last micro-step. -/
theorem commandSteps_finish_lt (cfg : Config) (l : Latch) {p : Phase} (h : ∀ c, p ≠ .finish c) (c : Code) :
    commandSteps cfg l (.finish c) < commandSteps cfg l p := by
  cases p with
  | finish d => exact absurd rfl (h d)
  | prePoll tmo job => cases job <;> simp [commandSteps, programSteps]
  | _ => simp [commandSteps, programSteps]

theorem commandSteps_afterPrePoll (cfg : Config) (l : Latch) (tmo : Budget) (job : Job) :
    commandSteps cfg l (afterPrePoll tmo job) < commandSteps cfg l (.prePoll tmo job) := by
  match job with
  | .receive a n b => simp [afterPrePoll, commandSteps, programSteps]
  | .identify => simp [afterPrePoll, commandSteps, programSteps]
  | .mutate [] => exact commandSteps_finish_lt cfg l (p := .prePoll tmo (.mutate [])) nofun .ok
  | .mutate (op :: rest) =>
    simp only [afterPrePoll, commandSteps, programSteps, List.length_cons]
    omega

theorem commandSteps_afterPostPoll (cfg : Config) (l : Latch) (tmo : Budget) (rest : List MutOp) :
    commandSteps cfg l (afterPostPoll tmo rest) < commandSteps cfg l (.postPoll tmo rest) := by
  cases rest with
  | nil => exact commandSteps_finish_lt cfg l (p := .postPoll tmo []) nofun .ok
  | cons op rest =>
    simp only [afterPostPoll, commandSteps, programSteps, List.length_cons]
    omega

/-- The decode step goes to the check, or past it. -/
theorem commandSteps_firstOf {cfg : Config} {l : Latch} {i : Instr} (h : decode l.opw = .ok i) :
    commandSteps cfg l (firstOf cfg i l) < commandSteps cfg l .decode := by
  have hplan := commandSteps_planOfWord cfg l
  have hfirst : firstOf cfg i l = planOfWord cfg l ∨ firstOf cfg i l = .check := by
    rw [planOfWord_ok h]
    cases i with
    | nop | crcInit | eraseChip | readId => exact .inl rfl
    | _ => exact .inr rfl
  rcases hfirst with hfirst | hfirst <;> rw [hfirst] <;> simp only [commandSteps] at hplan ⊢ <;> omega

/-! ### Every micro-step on a device with nothing pending advances the command -/

/-- The step from `s` to `t` brings the command nearer to its `finish`, keeps the device fitted and leaves no byte of
DBUF undefined. -/
structure Advances (s t : State) : Prop where
  fitted_eq : t.dev.fitted = s.dev.fitted
  dbuf_defined : ∀ b n, dbufDefined s.dbuf b n = true → dbufDefined t.dbuf b n = true
  steps_lt : seqSteps s.cfg t.seq < seqSteps s.cfg s.seq

theorem dbufDefined_foldl_memSet {b n : Nat} (ps : List (Nat × Byte)) {m : Memory} (h : dbufDefined m b n = true) :
    dbufDefined (ps.foldl (fun m p => memSet m p.1 p.2) m) b n = true := by
  induction ps generalizing m with
  | nil => exact h
  | cons p ps ih => exact ih (dbufDefined_memSet h p.1 p.2)

theorem dbufDefined_dbufStore {b n : Nat} (i : Nat) (vs : List Byte) {m : Memory} (h : dbufDefined m b n = true) :
    dbufDefined (dbufStore m i vs) b n = true := by
  induction vs generalizing i m with
  | nil => exact h
  | cons v vs ih => exact ih (i + 1) (dbufDefined_memSet h i v)

section
variable {s t : State} {l : Latch} {p q : Phase}

/-- A micro-step that leaves the device's fitting and DBUF alone. -/
theorem advances_of_kept (hs : s.seq = .run l p) (hseq : t.seq = .run l q)
    (hlt : commandSteps s.cfg l q < commandSteps s.cfg l p) (hfitted : t.dev.fitted = s.dev.fitted)
    (hdbuf : t.dbuf = s.dbuf) : Advances s t where
  fitted_eq := hfitted
  dbuf_defined := fun _ _ h => hdbuf ▸ h
  steps_lt := by rwa [hs, hseq]

theorem Transacts.advances {f : Frame} (h : Transacts f l q s t) (hs : s.seq = .run l p)
    (hlt : commandSteps s.cfg l q < commandSteps s.cfg l p) : Advances s t := by
  obtain ⟨u, c, hu, rfl⟩ := h
  exact advances_of_kept hs rfl hlt hu.fitted_eq hu.dbuf_eq

/-- A poll of a device with nothing pending answers ready, unless its transaction fails (R103). -/
theorem pollStep_advances {ready : Phase} (hs : s.seq = .run l p) (hready : deviceReady s)
    (hp : ∀ c, p ≠ .finish c) (hlt : commandSteps s.cfg l ready < commandSteps s.cfg l p) :
    Advances s (pollStep l ready s) := by
  obtain ⟨hfitted, hidle⟩ := hready
  rw [pollStep_fitted ready hfitted hs]
  refine advances_of_kept hs rfl ?_ rfl rfl
  rw [if_pos hidle]
  split
  · exact commandSteps_finish_lt s.cfg l hp _
  · exact hlt

/-- The races settled at `finish` keep the device fitted and every defined byte defined. -/
theorem settleOf_keeps (i : Instr) (c : Code) (s : State) : (settleOf i c s).2.dev = s.dev ∧
    ∀ b n, dbufDefined s.dbuf b n = true → dbufDefined (settleOf i c s).2.dbuf b n = true := by
  rcases settleOf_cases i c s with h | ⟨-, h⟩ | ⟨-, w, h⟩ | ⟨-, val, stored, magic, version, crc, h⟩ <;> rw [h]
  · exact ⟨rfl, fun _ _ hdef => hdef⟩
  · exact ⟨rfl, fun _ _ hdef => dbufDefined_foldl_memSet _ hdef⟩
  · exact ⟨rfl, fun _ _ hdef => hdef⟩
  · exact ⟨rfl, fun _ _ hdef => hdef⟩

/-- Every micro-step of a command on a device with nothing pending advances it. -/
theorem microStep_advances {i : Instr} (hs : s.seq = .run l p) (hready : deviceReady s)
    (hi : p = .decode ∨ p = .check → decode l.opw = .ok i) (ht : microStep i l p s = .next t) : Advances s t := by
  have hend := commandSteps_finish_lt s.cfg l (p := p)
  cases p with
  | decode =>
    cases ht
    exact advances_of_kept hs rfl (commandSteps_firstOf (hi (.inl rfl))) rfl rfl
  | check =>
    cases ht
    refine advances_of_kept hs rfl ?_ rfl rfl
    rw [← planOfWord_ok (hi (.inr rfl)), commandSteps_planOfWord]
    simp [commandSteps]
  | prePoll tmo job =>
    cases ht
    exact pollStep_advances hs hready nofun (commandSteps_afterPrePoll s.cfg l tmo job)
  | receive a n b =>
    cases ht
    obtain ⟨bytes, code, hq, -⟩ := receiveStep_transacts l a n b s
    exact hq.advances hs (by simp [commandSteps, programSteps])
  | deposit b bytes code =>
    cases ht
    exact {
      fitted_eq := rfl
      dbuf_defined := fun _ _ hdef => dbufDefined_dbufStore b bytes hdef
      steps_lt := by rw [hs]; exact hend nofun code }
  | identify =>
    cases ht
    obtain ⟨u, id, st, q, hu, heq, -, -, hq⟩ := identifyStep_transaction l s
    rw [heq]
    refine advances_of_kept hs rfl ?_ hu.fitted_eq hu.dbuf_eq
    rcases hq with rfl | rfl | rfl <;> exact hend nofun _
  | writeEnable tmo op rest =>
    cases ht
    obtain ⟨q, hq, rfl | rfl⟩ := writeEnableStep_transacts l tmo op rest s
    · exact hq.advances hs (by simp [commandSteps, programSteps])
    · exact hq.advances hs (hend nofun _)
  | frame tmo op rest =>
    obtain ⟨f, q, hq, rfl | rfl, -⟩ := frameStep_transacts ht
    · exact hq.advances hs (by simp [commandSteps, programSteps])
    · exact hq.advances hs (hend nofun _)
  | postPoll tmo rest =>
    cases ht
    exact pollStep_advances hs hready nofun (commandSteps_afterPostPoll s.cfg l tmo rest)
  | seed =>
    cases ht
    exact advances_of_kept hs rfl (hend nofun _) rfl rfl
  | feed k =>
    obtain ⟨c, q, rfl, rfl | ⟨rfl, hk⟩⟩ := feedStep_next ht
    · exact advances_of_kept hs rfl (hend nofun _) rfl rfl
    · refine advances_of_kept hs rfl ?_ rfl rfl
      simp only [commandSteps, programSteps]
      omega
  | judge img =>
    obtain ⟨val, stored, magic, version, crc, code, rfl, -⟩ := judgeStep_next ht
    exact advances_of_kept hs rfl (hend nofun _) rfl rfl
  | finish code =>
    cases ht
    obtain ⟨hdev, hdef⟩ := settleOf_keeps i code s
    exact {
      fitted_eq := congrArg Device.fitted hdev
      dbuf_defined := hdef
      steps_lt := by rw [hs]; exact Nat.one_pos }

end

/-- The sequencer's move while a command runs: a micro-step of a command, or the first micro-step of an illegal word
(40_flash_controller.md R98). -/
theorem moveStep_sequencer_run {s : State} {l : Latch} {p : Phase} (hs : s.seq = .run l p) :
    (∃ i, (p = .decode ∨ p = .check → decode l.opw = .ok i) ∧ moveStep .sequencer s = microStep i l p s) ∨
      ((p = .decode ∨ p = .check) ∧ moveStep .sequencer s = .next (enter l (.finish .errOpcode) s)) := by
  cases hd : decode l.opw with
  | ok i => exact .inl ⟨i, fun _ => rfl, moveStep_sequencer hs hd⟩
  | error e =>
    rw [moveStep_sequencer_illegal hs hd, runIllegal_run hs]
    split
    · next hp => exact .inr ⟨hp, rfl⟩
    · next hp => exact .inl ⟨.nop, fun hp' => absurd hp' hp, rfl⟩

/-! ### The default schedule (70_reset_and_hazards.md R171, log 1) -/

/-- A state from which the default schedule ends the command. -/
structure OnSchedule (s : State) : Prop where
  inv : Inv s
  agenda_nil : s.agenda = []
  fitted : s.dev.fitted ≠ none
  dbuf_defined : dbufDefined s.dbuf 0 s.cfg.dbufSize = true

/-- A bound on the steps left: two for each micro-step, which may leave an operation pending, and one for an operation
that is pending now. -/
def stepsLeft (s : State) : Nat := 2 * seqSteps s.cfg s.seq + if s.dev.pending = none then 0 else 1

/-- The completion step ends the pending operation and leaves the command and DBUF alone (20_memory.md R71). -/
theorem deviceStep_ends {s : State} {op : DevOp} (hp : s.dev.pending = some op) : ∃ n m,
    deviceStep s = { s with draws := n, dev := { s.dev with flash := m, pending := none, wel := false } } := by
  have hcomplete (u : State) : settleDevice (applyOp op u) = { u with
      draws := (applyOp op u).draws
      dev := { u.dev with flash := (applyOp op u).dev.flash, pending := none, wel := false } } := by
    rw [applyOp_frame]
    rfl
  cases hu : devUnprotected s.dev with
  | true => exact ⟨_, _, (deviceStep_unprotected hp hu).trans (hcomplete s)⟩
  | false =>
    rw [deviceStep_protected hp hu]
    split
    · exact ⟨_, _, rfl⟩
    · exact ⟨_, _, hcomplete (bump 1 s)⟩

theorem OnSchedule.after_completion {s : State} {op : DevOp} (h : OnSchedule s) (hp : s.dev.pending = some op) :
    OnSchedule (deviceStep s) ∧ stepsLeft (deviceStep s) < stepsLeft s := by
  have hinv := inv_deviceStep h.inv
  obtain ⟨n, m, heq⟩ := deviceStep_ends hp
  rw [heq] at hinv ⊢
  exact ⟨⟨hinv, h.agenda_nil, h.fitted, h.dbuf_defined⟩, by simp [stepsLeft, hp]⟩

/-- The sequencer's move on a device with nothing pending advances the command. -/
theorem OnSchedule.exists_microStep {s : State} {l : Latch} {p : Phase} (h : OnSchedule s) (hs : s.seq = .run l p)
    (hp : s.dev.pending = none) : ∃ t, moveStep .sequencer s = .next t ∧ t.cfg = s.cfg ∧ Advances s t := by
  rcases moveStep_sequencer_run hs with ⟨i, hi, hmove⟩ | ⟨hphase, hmove⟩
  · obtain ⟨t, ht⟩ := microStep_next_of_defined i h.inv hs h.dbuf_defined
    exact ⟨t, hmove.trans ht, (microStep_commandFrame hs ht).cfg_eq, microStep_advances hs ⟨h.fitted, hp⟩ hi ht⟩
  · have hlt := commandSteps_finish_lt s.cfg l (p := p) (by rcases hphase with rfl | rfl <;> exact nofun) .errOpcode
    exact ⟨_, hmove, rfl, advances_of_kept hs rfl hlt rfl rfl⟩

/-- While a command runs, the default schedule has a next step, and it leaves fewer steps to the command's end. -/
theorem OnSchedule.exists_step {s : State} (h : OnSchedule s) (hrun : s.seq ≠ .idle) :
    ∃ t, step s = .next t ∧ OnSchedule t ∧ stepsLeft t < stepsLeft s := by
  rw [step_of_agenda_nil h.agenda_nil, defaultMove_eq]
  cases hp : s.dev.pending with
  | some op => exact ⟨deviceStep s, rfl, h.after_completion hp⟩
  | none =>
    obtain ⟨l, p, hs⟩ : ∃ l p, s.seq = .run l p := by
      cases hs : s.seq with
      | idle => exact absurd hs hrun
      | run l p => exact ⟨l, p, rfl⟩
    obtain ⟨t, hmove, hcfg, hadv⟩ := h.exists_microStep hs hp
    refine ⟨t, hmove, ⟨inv_moveStep h.inv hmove, (moveStep_agenda hmove).trans h.agenda_nil,
      hadv.fitted_eq ▸ h.fitted, hcfg ▸ hadv.dbuf_defined _ _ h.dbuf_defined⟩, ?_⟩
    have hlt := hadv.steps_lt
    unfold stepsLeft
    rw [hcfg, if_pos hp]
    split <;> omega

/-- The default schedule reaches an Idle sequencer, by induction on the bound on the steps left. -/
theorem OnSchedule.finishes {s : State} (h : OnSchedule s) :
    ∃ k t, run k s = .next t ∧ t.seq = .idle ∧ OnSchedule t := by
  by_cases hidle : s.seq = .idle
  · exact ⟨0, s, rfl, hidle, h⟩
  · obtain ⟨t, hstep, ht, hlt⟩ := h.exists_step hidle
    obtain ⟨k, u, hrun, hu⟩ := ht.finishes
    exact ⟨k + 1, u, by rw [run, hstep]; exact hrun, hu⟩
termination_by stepsLeft s

end Sys2Proof.Machine

namespace Sys2Proof.Proofs

open Sys2Proof.Machine Sys2Proof.Safety

/-- Settles O59: every step of the default schedule lowers the bound `stepsLeft`, so the sequencer comes to be Idle,
and then the invariant gives BUSY = 0. -/
theorem everyCommandFinishes : Obligations.EveryCommandFinishes := by
  intro s hinv hagenda hfitted hdef
  obtain ⟨k, t, hrun, hidle, ht⟩ := OnSchedule.finishes ⟨hinv, hagenda, hfitted, hdef⟩
  refine ⟨k, t, hrun, hidle, Bool.eq_false_of_not_eq_true fun hbusy => ?_⟩
  exact ht.inv.busy_iff.1 hbusy hidle

end Sys2Proof.Proofs
end

section
/-! PROOFS. The statement on the residue of the CRC: each stored byte cancels the part of the state it meets, so what
four of them leave is what four zero bytes leave of the final complement. -/

namespace Sys2Proof.Machine

/-! ### A word fed into a state that holds it (41_crc_validator.md R119-R122) -/

/-- The low byte of a word that is xored into the state cancels itself, and the rest of the word shifts down. -/
theorem crcUpdate_xor_low (r w : Word) :
    crcUpdate (r ^^^ w) (w.extractLsb' 0 8) = crcUpdate r 0#8 ^^^ (w >>> 8) := by
  have hlow : (r ^^^ w ^^^ (w.extractLsb' 0 8).setWidth 32).extractLsb' 0 8 =
      (r ^^^ (0#8).setWidth 32).extractLsb' 0 8 := by
    apply BitVec.eq_of_getLsbD_eq
    intro i hi
    simp [hi, show i < 32 by omega]
  rw [crcUpdate_eq_crcTable, crcUpdate_eq_crcTable, hlow, BitVec.ushiftRight_xor_distrib, BitVec.xor_assoc]

/-- Feeding the low `n` bytes of a word that is xored into the state is feeding `n` zero bytes without it; the bytes
not yet fed stay xored in, shifted down. -/
theorem crcFeed_xor_leBytes (r w : Word) (n : Nat) :
    crcFeed (r ^^^ w) ((List.range n).map fun k => w.extractLsb' (8 * k) 8) =
      crcFeed r (List.replicate n 0#8) ^^^ (w >>> (8 * n)) := by
  induction n with
  | zero => simp [crcFeed]
  | succ n ih =>
    have hbyte : w.extractLsb' (8 * n) 8 = (w >>> (8 * n)).extractLsb' 0 8 := by
      apply BitVec.eq_of_getLsbD_eq
      intro i hi
      simp [hi]
    calc crcFeed (r ^^^ w) ((List.range (n + 1)).map fun k => w.extractLsb' (8 * k) 8)
        = crcUpdate (crcFeed r (List.replicate n 0#8) ^^^ (w >>> (8 * n))) (w.extractLsb' (8 * n) 8) := by
          rw [List.range_succ, List.map_append, crcFeed_append, ih]
          rfl
      _ = crcUpdate (crcFeed r (List.replicate n 0#8)) 0#8 ^^^ (w >>> (8 * (n + 1))) := by
          rw [hbyte, crcUpdate_xor_low, ← BitVec.shiftRight_add, Nat.mul_succ]
      _ = crcFeed r (List.replicate (n + 1) 0#8) ^^^ (w >>> (8 * (n + 1))) := by
          rw [List.replicate_succ', crcFeed_append]
          rfl

/-- The state after a sequence of bytes is its digest with the final complement undone. -/
theorem crcFeed_seed_eq (ds : List Byte) : crcFeed Config.crcSeed ds = Config.crcXorOut ^^^ crc32 ds := by
  rw [crc32, BitVec.xor_comm (crcFeed _ _), ← BitVec.xor_assoc, BitVec.xor_self, BitVec.zero_xor]

end Sys2Proof.Machine

namespace Sys2Proof.Proofs

open Sys2Proof.Machine

/-- Settles O21: the state holds the digest under the final complement, so the digest's four bytes cancel it and leave
the complement fed with four zero bytes. -/
theorem crcResidueIsConstant : Obligations.CrcResidueIsConstant := by
  intro ds
  have hgone : crc32 ds >>> (8 * 4) = 0#32 := BitVec.ushiftRight_eq_zero (by decide)
  have hresidue : crcFeed Config.crcXorOut (List.replicate 4 0#8) = 0xDEBB20E3#32 := by decide +kernel
  rw [crcFeed_append, crcFeed_seed_eq, crcFeed_xor_leBytes, hgone, BitVec.xor_zero, hresidue]

end Sys2Proof.Proofs
end
